-- ==== Sys2Proof/Word.lean ====
section
/-! DEFINITION. The machine's word types: the byte (8 bits), the nibble (4 bits) and the word (32 bits) of spec rule R9. -/

namespace Sys2Proof

/-- A byte: 8 bits (R9). -/
abbrev Byte := BitVec 8

/-- A word: 32 bits, the width of every register of the window (R9, R21). -/
abbrev Word := BitVec 32

end Sys2Proof
end

