-- ==== Sys2Proof/Config.lean ====
section
/-! DEFINITION. What an implementation fixes (the parameters of R7, at the values R7 states) and the free values, for
which the spec states no value (93_implementation_defined.md U3, U4, U5, U20). -/

namespace Sys2Proof.Config

/-- `NCAND`: candidates retained per position (R7). -/
def ncand : Nat := 8
/-- `LEN_CLASS_BITS` (R7). -/
def lenClassBits : Nat := 15
/-- `WORD_BITS` (R7). -/
def wordBits : Nat := 32
/-- `POS_BITS = WORD_BITS - LEN_CLASS_BITS` (R7). -/
def posBits : Nat := wordBits - lenClassBits
/-- `LCP_MAX = 2^LEN_CLASS_BITS - 1`, the largest stored match length (R7). -/
def lcpMax : Nat := 32767
/-- `WORK_CAP = 2^POS_BITS`, the largest window in bytes (R7). -/
def workCap : Nat := 131072
/-- `MAX_BLOCK`: the largest `input_size` of a framed `SHRINK` (R7). -/
def maxBlock : Nat := 65535
/-- `RAW_MAX_INPUT`: the raw block's size ceiling (R7). -/
def rawMaxInput : Nat := 65535
/-- `MAX_OFFSET`: the largest offset the Match Finder emits (R7). -/
def maxOffset : Nat := 65535
/-- `MIN_MATCH_V1` (R7). -/
def minMatchV1 : Nat := 3
/-- `MIN_MATCH_V2` (R7). -/
def minMatchV2 : Nat := 2
/-- `REP_SLOTS`: entries of the favored-offset table (R7). -/
def repSlots : Nat := 4
/-- `REP_WARM_NUDGE` (R7). -/
def repWarmNudge : Nat := 1
/-- `LIT_BITS`: model cost of a literal byte (R7). -/
def litBits : Nat := 8
/-- `TOKEN_BITS`: model cost of a token byte (R7). -/
def tokenBits : Nat := 8
/-- `MODE_SWITCH_PENALTY` (R7). -/
def modeSwitchPenalty : Nat := 3
/-- `LEAVE_ALONE_LEN` (R7). -/
def leaveAloneLen : Nat := 512
/-- `WIN_CAP`, `COUT_CAP`, `DIN_CAP`, `DOUT_CAP`: the size in bytes of each buffer memory (R7, R60). -/
def memCap : Nat := 131072

/-- FREE VALUE (log 7): the byte at an address that nothing has written since the reset of number `gen`, in the memory of
number `space` (R35, R412, U5, U20: "any value"). No proof can see it. -/
opaque powerUpByte (gen space addr : Nat) : Byte

/-- FREE VALUE (log 8): the bytes a command leaves unspecified in an output buffer (R62, R64, U3, U4: "any value"), one
fresh byte per value of State's counter `serial`. -/
opaque freeByte (serial : Nat) : Byte

/-- FREE VALUE (log 9): what `RESULT` and `CMDCOUNT` read as, and what selects the code that `ERRCODE` reads as, while
`BUSY = 1` (R420: "mean nothing until `DONE = 1`"). -/
opaque freeWord (serial : Nat) : Word

end Sys2Proof.Config
end

