-- ==== Sys2Proof/Syntax.lean ====
section
/-! DEFINITION. The instruction set: one constructor per row of the opcode table, and the formats the rows belong to. -/

namespace Sys2Proof

/-- The nine formats of the opcode table (30_encoding.md, opening text, R90, R98, R101, R104, R106, R111, R116). -/
inductive Format where
  /-- the 32-bit command word written to `CMD` (R90) -/
  | cmdw
  /-- the V1 token byte (R98) -/
  | v1tok
  /-- the byte after a V1 token whose `LLL` is 7 (R101) -/
  | v1litx
  /-- the byte after the offset of a V1 token whose `MMMM` is 15 (R104) -/
  | v1mlx
  /-- the V2 token byte (R106) -/
  | v2tok
  /-- the nibble after a V2 token whose `LL` is 3 (R111) -/
  | v2litxn
  /-- the byte after a literal nibble of 15 (R111) -/
  | v2litxb
  /-- the nibble after the offset of a V2 token whose `MMM` is 7 (R116) -/
  | v2mlxn
  /-- the byte after a match nibble of 15 (R116) -/
  | v2mlxb
  deriving DecidableEq, Repr

/-- The instructions: five host commands, whose operands are the `ARGi` registers (R91), and the token and extension
forms the Block Decoder reads (30_encoding.md). Operands are the row's free bits, and the operand bytes that follow an
extension byte (`c`; `lo hi` as one 16-bit value, R101, R104, R111, R116). -/
inductive Instr where
  /-- `INIT` (R331) -/
  | init
  /-- `DESTROY` (R340) -/
  | destroy
  /-- `SHRINK` (R342) -/
  | shrink
  /-- `GETCOUNT` (R352) -/
  | getcount
  /-- `EXPAND` (R354) -/
  | expand
  /-- `V1.CMD8`, token with `O = 0` (R98, R284) -/
  | v1Cmd8 (lll : BitVec 3) (mmmm : BitVec 4)
  /-- `V1.CMD16`, token with `O = 1` (R98, R285) -/
  | v1Cmd16 (lll : BitVec 3) (mmmm : BitVec 4)
  /-- `V1.LITX8`, byte 0..248 (R281) -/
  | v1Litx8 (b : Byte)
  /-- `V1.LITX9`, byte 250 then `c` (R282) -/
  | v1Litx9 (c : Byte)
  /-- `V1.LITX16`, byte 249 then `lo hi` (R283) -/
  | v1Litx16 (v : BitVec 16)
  /-- `V1.MLX8`, byte 0..237 (R287) -/
  | v1Mlx8 (b : Byte)
  /-- `V1.MLX9`, byte 239 then `c` (R288) -/
  | v1Mlx9 (c : Byte)
  /-- `V1.MLX16`, byte 238 then `lo hi`, not both 0 (R289) -/
  | v1Mlx16 (v : BitVec 16)
  /-- `V1.EOD`, byte 238 then `0 0` (R289, R118) -/
  | v1Eod
  /-- `V2.OFF5`, token `00Z` (R295); `z` is the token's `Z` bit -/
  | v2Off5 (z : BitVec 1) (ll : BitVec 2) (mmm : BitVec 3)
  /-- `V2.OFF9`, token `01Z` (R297) -/
  | v2Off9 (z : BitVec 1) (ll : BitVec 2) (mmm : BitVec 3)
  /-- `V2.OFF13`, token `10Z` (R298) -/
  | v2Off13 (z : BitVec 1) (ll : BitVec 2) (mmm : BitVec 3)
  /-- `V2.OFF16`, token `110` (R299) -/
  | v2Off16 (ll : BitVec 2) (mmm : BitVec 3)
  /-- `V2.REP`, token `111` (R296) -/
  | v2Rep (ll : BitVec 2) (mmm : BitVec 3)
  /-- `V2.LITXN`, nibble 0..14 (R292) -/
  | v2Litxn (v : BitVec 4)
  /-- `V2.LITX8`, byte 0..237 (R293) -/
  | v2Litx8 (b : Byte)
  /-- `V2.LITX16`, byte 239 then `lo hi` (R294) -/
  | v2Litx16 (v : BitVec 16)
  /-- `V2.MLXN`, nibble 0..14 (R301) -/
  | v2Mlxn (v : BitVec 4)
  /-- `V2.MLX8`, byte 0..231 (R302) -/
  | v2Mlx8 (b : Byte)
  /-- `V2.EOD`, byte 232 (R304, R118) -/
  | v2Eod
  /-- `V2.MLX16`, byte 233 then `lo hi` (R303); value 0 is decoded and is a `FORMAT_ERROR` when it runs -/
  | v2Mlx16 (v : BitVec 16)
  deriving DecidableEq, Repr

end Sys2Proof
end

