-- ==== Sys2Proof/WellFormed.lean ====
section
/-! DEFINITION. Which terms of Instr stand for an encoding: the ranges of the extension rows. -/

namespace Sys2Proof

/-- The row's range check: an extension value outside its row's range is another row's or reserved (R101, R104, R111,
R116, R120). Every token byte and every command is well formed. -/
def Instr.wf : Instr → Bool
  | .init => true
  | .destroy => true
  | .shrink => true
  | .getcount => true
  | .expand => true
  | .v1Cmd8 _ _ => true
  | .v1Cmd16 _ _ => true
  | .v1Litx8 b => decide (b.toNat ≤ 248)
  | .v1Litx9 _ => true
  | .v1Litx16 _ => true
  | .v1Mlx8 b => decide (b.toNat ≤ 237)
  | .v1Mlx9 _ => true
  | .v1Mlx16 v => decide (1 ≤ v.toNat)
  | .v1Eod => true
  | .v2Off5 _ _ _ => true
  | .v2Off9 _ _ _ => true
  | .v2Off13 _ _ _ => true
  | .v2Off16 _ _ => true
  | .v2Rep _ _ => true
  | .v2Litxn v => decide (v.toNat ≤ 14)
  | .v2Litx8 b => decide (b.toNat ≤ 237)
  | .v2Litx16 _ => true
  | .v2Mlxn v => decide (v.toNat ≤ 14)
  | .v2Mlx8 b => decide (b.toNat ≤ 231)
  | .v2Eod => true
  | .v2Mlx16 _ => true

/-- A well-formed instruction: one that some encoding stands for. -/
abbrev Instr.WellFormed (i : Instr) : Prop := i.wf = true

end Sys2Proof
end

