-- ==== Sys2Proof/Decode.lean ====
section
/-! DEFINITION. The decoder, total on any bytes and rejecting by name, and the encoder, both from the tables of
30_encoding.md (R90 to R120). -/

namespace Sys2Proof

/-- Why a group of bytes is no instruction. -/
inductive DecodeError where
  /-- fewer bytes are left than the instruction has (R120: "missing because IP = in_size") -/
  | truncated
  /-- `CMDW` opcode 0 or 6..15 (R93) -/
  | reservedOpcode
  /-- literal extension byte V1 251..255, V2 238 and 240..255 (R120) -/
  | reservedLiteralExtension
  /-- match extension byte V1 240..255, V2 234..255 (R120) -/
  | reservedMatchExtension
  deriving DecidableEq, Repr

/-- What the decoder reads at the head of a list of bytes. -/
inductive Decoded where
  /-- the instruction `i`, taking `len` bytes (a nibble counts as one entry of the list) -/
  | instr (i : Instr) (len : Nat)
  /-- a nibble of 15: the extension goes on with a byte of format `next` (R111, R116) -/
  | escape (next : Format)
  /-- no instruction, with the reason -/
  | rejected (why : DecodeError)
  deriving DecidableEq, Repr

/-- The 16-bit value `lo + 256*hi` of two bytes in stream order (R67: little-endian length fields). -/
def halfOf (lo hi : Byte) : BitVec 16 := hi ++ lo

/-- The low byte of a 16-bit value. -/
def loByte (v : BitVec 16) : Byte := v.extractLsb' 0 8

/-- The high byte of a 16-bit value. -/
def hiByte (v : BitVec 16) : Byte := v.extractLsb' 8 8

/-- The four bytes of a word, bit 0 in the first. -/
def bytesOfWord (w : Word) : List Byte :=
  [w.extractLsb' 0 8, w.extractLsb' 8 8, w.extractLsb' 16 8, w.extractLsb' 24 8]

/-- The host command word (R90, R91, R93): the low nibble of its first byte is the opcode, the rest is ignored. -/
def decodeCmdw : List Byte → Decoded
  | b :: _ :: _ :: _ :: _ =>
    let opcode := (b.extractLsb' 0 4).toNat
    if opcode = 1 then .instr .init 4
    else if opcode = 2 then .instr .destroy 4
    else if opcode = 3 then .instr .shrink 4
    else if opcode = 4 then .instr .getcount 4
    else if opcode = 5 then .instr .expand 4
    else .rejected .reservedOpcode
  | _ => .rejected .truncated

/-- The V1 token byte (R98, R278): `O` bit 7, `LLL` bits 6..4, `MMMM` bits 3..0. -/
def decodeV1tok : List Byte → Decoded
  | t :: _ =>
    if t.extractLsb' 7 1 = 0#1 then .instr (.v1Cmd8 (t.extractLsb' 4 3) (t.extractLsb' 0 4)) 1
    else .instr (.v1Cmd16 (t.extractLsb' 4 3) (t.extractLsb' 0 4)) 1
  | [] => .rejected .truncated

/-- The V1 literal-length extension (R101). -/
def decodeV1litx : List Byte → Decoded
  | [] => .rejected .truncated
  | b :: rest =>
    if b.toNat ≤ 248 then .instr (.v1Litx8 b) 1
    else if b.toNat = 250 then
      match rest with
      | c :: _ => .instr (.v1Litx9 c) 2
      | [] => .rejected .truncated
    else if b.toNat = 249 then
      match rest with
      | lo :: hi :: _ => .instr (.v1Litx16 (halfOf lo hi)) 3
      | _ => .rejected .truncated
    else .rejected .reservedLiteralExtension

/-- The V1 match-length extension (R104); the two bytes after 238 tell `V1.EOD` from `V1.MLX16` (R289). -/
def decodeV1mlx : List Byte → Decoded
  | [] => .rejected .truncated
  | b :: rest =>
    if b.toNat ≤ 237 then .instr (.v1Mlx8 b) 1
    else if b.toNat = 239 then
      match rest with
      | c :: _ => .instr (.v1Mlx9 c) 2
      | [] => .rejected .truncated
    else if b.toNat = 238 then
      match rest with
      | lo :: hi :: _ => if halfOf lo hi = 0#16 then .instr .v1Eod 3 else .instr (.v1Mlx16 (halfOf lo hi)) 3
      | _ => .rejected .truncated
    else .rejected .reservedMatchExtension

/-- The V2 token byte (R106, R110, R290): `XYZ` bits 7..5, `LL` bits 4..3, `MMM` bits 2..0. -/
def decodeV2tok : List Byte → Decoded
  | t :: _ =>
    let xy := (t.extractLsb' 6 2).toNat
    let z : BitVec 1 := t.extractLsb' 5 1
    let ll : BitVec 2 := t.extractLsb' 3 2
    let mmm : BitVec 3 := t.extractLsb' 0 3
    if xy = 0 then .instr (.v2Off5 z ll mmm) 1
    else if xy = 1 then .instr (.v2Off9 z ll mmm) 1
    else if xy = 2 then .instr (.v2Off13 z ll mmm) 1
    else if z = 0#1 then .instr (.v2Off16 ll mmm) 1
    else .instr (.v2Rep ll mmm) 1
  | [] => .rejected .truncated

/-- The V2 literal-length nibble (R111), held in the low half of the list's first entry. -/
def decodeV2litxn : List Byte → Decoded
  | [] => .rejected .truncated
  | b :: _ =>
    if (b.extractLsb' 0 4).toNat ≤ 14 then .instr (.v2Litxn (b.extractLsb' 0 4)) 1
    else .escape .v2litxb

/-- The V2 literal-length byte after a nibble of 15 (R111). DESIGN CHOICE (log 25): with the nibble's own byte the longest
form is 4 bytes, as R111's table, R250 (`x2 = 4`) and vector B47 have it, where R123 counts "0..3 literal-extension
bytes"; the model follows R111. -/
def decodeV2litxb : List Byte → Decoded
  | [] => .rejected .truncated
  | b :: rest =>
    if b.toNat ≤ 237 then .instr (.v2Litx8 b) 1
    else if b.toNat = 239 then
      match rest with
      | lo :: hi :: _ => .instr (.v2Litx16 (halfOf lo hi)) 3
      | _ => .rejected .truncated
    else .rejected .reservedLiteralExtension

/-- The V2 match-length nibble (R116). -/
def decodeV2mlxn : List Byte → Decoded
  | [] => .rejected .truncated
  | b :: _ =>
    if (b.extractLsb' 0 4).toNat ≤ 14 then .instr (.v2Mlxn (b.extractLsb' 0 4)) 1
    else .escape .v2mlxb

/-- The V2 match-length byte after a nibble of 15 (R116). -/
def decodeV2mlxb : List Byte → Decoded
  | [] => .rejected .truncated
  | b :: rest =>
    if b.toNat ≤ 231 then .instr (.v2Mlx8 b) 1
    else if b.toNat = 232 then .instr .v2Eod 1
    else if b.toNat = 233 then
      match rest with
      | lo :: hi :: _ => .instr (.v2Mlx16 (halfOf lo hi)) 3
      | _ => .rejected .truncated
    else .rejected .reservedMatchExtension

/-- The decoder: the instruction of format `f` at the head of `bytes`. -/
def decode (f : Format) (bytes : List Byte) : Decoded :=
  match f with
  | .cmdw => decodeCmdw bytes
  | .v1tok => decodeV1tok bytes
  | .v1litx => decodeV1litx bytes
  | .v1mlx => decodeV1mlx bytes
  | .v2tok => decodeV2tok bytes
  | .v2litxn => decodeV2litxn bytes
  | .v2litxb => decodeV2litxb bytes
  | .v2mlxn => decodeV2mlxn bytes
  | .v2mlxb => decodeV2mlxb bytes

/-- Whether a format is read from the nibble buffer and not from whole bytes (R108, R111, R116). -/
def Format.isNibble : Format → Bool
  | .v2litxn => true
  | .v2mlxn => true
  | _ => false

/-- The format an instruction belongs to (opcode table, column format). -/
def Instr.format : Instr → Format
  | .init => .cmdw
  | .destroy => .cmdw
  | .shrink => .cmdw
  | .getcount => .cmdw
  | .expand => .cmdw
  | .v1Cmd8 _ _ => .v1tok
  | .v1Cmd16 _ _ => .v1tok
  | .v1Litx8 _ => .v1litx
  | .v1Litx9 _ => .v1litx
  | .v1Litx16 _ => .v1litx
  | .v1Mlx8 _ => .v1mlx
  | .v1Mlx9 _ => .v1mlx
  | .v1Mlx16 _ => .v1mlx
  | .v1Eod => .v1mlx
  | .v2Off5 _ _ _ => .v2tok
  | .v2Off9 _ _ _ => .v2tok
  | .v2Off13 _ _ _ => .v2tok
  | .v2Off16 _ _ => .v2tok
  | .v2Rep _ _ => .v2tok
  | .v2Litxn _ => .v2litxn
  | .v2Litx8 _ => .v2litxb
  | .v2Litx16 _ => .v2litxb
  | .v2Mlxn _ => .v2mlxn
  | .v2Mlx8 _ => .v2mlxb
  | .v2Eod => .v2mlxb
  | .v2Mlx16 _ => .v2mlxb

/-- The encoder: the bytes of an instruction in its format, a nibble in the low half of its entry (the opcode table's
match column, with the operand bytes after it). -/
def encode : Instr → List Byte
  | .init => bytesOfWord 1#32
  | .destroy => bytesOfWord 2#32
  | .shrink => bytesOfWord 3#32
  | .getcount => bytesOfWord 4#32
  | .expand => bytesOfWord 5#32
  | .v1Cmd8 lll mmmm => [0#1 ++ lll ++ mmmm]
  | .v1Cmd16 lll mmmm => [1#1 ++ lll ++ mmmm]
  | .v1Litx8 b => [b]
  | .v1Litx9 c => [0xFA#8, c]
  | .v1Litx16 v => [0xF9#8, loByte v, hiByte v]
  | .v1Mlx8 b => [b]
  | .v1Mlx9 c => [0xEF#8, c]
  | .v1Mlx16 v => [0xEE#8, loByte v, hiByte v]
  | .v1Eod => [0xEE#8, 0#8, 0#8]
  | .v2Off5 z ll mmm => [0#2 ++ z ++ ll ++ mmm]
  | .v2Off9 z ll mmm => [1#2 ++ z ++ ll ++ mmm]
  | .v2Off13 z ll mmm => [2#2 ++ z ++ ll ++ mmm]
  | .v2Off16 ll mmm => [6#3 ++ ll ++ mmm]
  | .v2Rep ll mmm => [7#3 ++ ll ++ mmm]
  | .v2Litxn v => [0#4 ++ v]
  | .v2Litx8 b => [b]
  | .v2Litx16 v => [0xEF#8, loByte v, hiByte v]
  | .v2Mlxn v => [0#4 ++ v]
  | .v2Mlx8 b => [b]
  | .v2Eod => [0xE8#8]
  | .v2Mlx16 v => [0xE9#8, loByte v, hiByte v]

/-- The bytes of a table word, bit 0 in the first byte, and zeros above it. -/
def tableBytes (nbits w : Nat) : List Byte := bytesOfWord (BitVec.ofNat 32 (w % 2 ^ nbits))

/-- DESIGN CHOICE (log 5). The format in which a table word that stands ALONE is read. On the wire the format is known
from what came before; a lone byte fits the rows of several formats, so the most specific row is taken: a byte that is
some row's whole pattern belongs to that row's format, every other byte is a V2 token. -/
def tableFormat (nbits w : Nat) : Format :=
  if 8 < nbits then .cmdw
  else if nbits ≤ 4 then .v2litxn
  else
    let b := w % 256
    if b = 0xFA ∨ b = 0xF9 then .v1litx
    else if b = 0xEE ∨ b = 0xEF then .v1mlx
    else if b = 0xE8 ∨ b = 0xE9 then .v2mlxb
    else .v2tok

/-- The instruction the decoder reads from an opcode-table word of `nbits` bits (log 5). -/
def decodeTableWord (nbits w : Nat) : Option Instr :=
  match decode (tableFormat nbits w) (tableBytes nbits w) with
  | .instr i _ => some i
  | _ => none

end Sys2Proof
end

