-- ==== Sys2Proof/Machine/State.lean ====
section
/-! DEFINITION. The machine's state: every register, array and memory of 10_state.md, as plain data, and its value after
reset (R35, R410). -/

namespace Sys2Proof.Machine

/-- A buffer memory: the bytes that were written, as (address, byte) pairs with strictly rising addresses. An unlisted
address has not been written since the last reset and holds no value of its own (log 7). -/
abbrev Memory := List Host.Cell

/-- The four buffer memories (R60). -/
inductive Space where
  | win | cout | din | dout
  deriving DecidableEq, Repr

/-- The error kinds (R371). Code 7 is reserved and never produced (U11). -/
inductive ErrKind where
  | ok | alloc | outTooSmall | rawInputTooLarge | rawIncompressible | formatError | badArg
  deriving DecidableEq, Repr

/-- The compressor context (R27). `cmdcount` is also what the register `CMDCOUNT` reads, and `valid` what
`STATUS.CTX_VALID` reads (log 13). -/
structure Ctx where
  /-- `CTX.VALID` -/
  valid : Bool
  /-- `CTX.MAXWIN`, 0..131072 (18 bits) -/
  maxwin : Nat
  /-- `CTX.MINMATCH`, 0..255 (8 bits) -/
  minmatch : Nat
  /-- `CTX.FMT` -/
  fmt : BitVec 2
  /-- `CTX.FAVOR` -/
  favor : Bool
  /-- `CTX.RAW` -/
  raw : Bool
  /-- `CTX.CMDCOUNT` -/
  cmdcount : Word
  deriving DecidableEq, Repr

/-- A Suffix Interval (R143). -/
structure Interval where
  lcp : Nat
  lb : Nat
  rb : Nat
  deriving DecidableEq, Repr

/-- An interval under construction: an entry of the open-interval stack (R146). -/
structure OpenInterval where
  lcp : Nat
  lb : Nat
  deriving DecidableEq, Repr

/-- A Candidate Match (R163). -/
structure Cand where
  len : Nat
  off : Nat
  deriving DecidableEq, Repr

/-- The annotation of a candidate (R183); `slot = none` is the spec's `NONE`. -/
structure RepAnn where
  slot : Option Nat
  inOff : Nat
  repCost : Nat
  delta : Nat
  deriving DecidableEq, Repr

/-- A model cost in bits; `none` is the spec's `inf` (R10, R201). -/
abbrev Cost := Option Nat

/-- A Token (R216). -/
inductive Token where
  | lit (start count : Nat)
  | mtch (off len : Nat) (rep : Bool)
  deriving DecidableEq, Repr

/-- The working arrays of the compressor (R28) and the Token Encoder's registers (R32). Arrays over block positions list
position `s + k` as element `k`. No rule reads a value that the same `SHRINK` has not written (R29; log 16). -/
structure Work where
  sa : List Nat
  lcp : List Nat
  ivl : List Interval
  opens : List OpenInterval
  nc : List Nat
  cand : List (List Cand)
  ro : List (List RepAnn)
  fav : List Nat
  gcur : Nat
  costL : List Cost
  costM : List Cost
  bestJ : List (Option Nat)
  tok : List Token
  /-- `EOP` (R32, R231) -/
  eop : Nat
  /-- `ENIB` (R32, R236) -/
  enib : Option Nat
  /-- `EREP` (R32, R217) -/
  erep : Nat
  deriving DecidableEq, Repr

/-- The offset form a token byte selects (R98, R110). The V2 short forms carry the inverted bit `z = 1 - Z`. -/
inductive OffForm where
  /-- V1, `O = 0`: one byte (R284) -/
  | o8
  /-- V1, `O = 1`: two bytes, low first (R285) -/
  | o16
  /-- V2 `00Z`: one nibble (R295) -/
  | off5 (z : BitVec 1)
  /-- V2 `01Z`: one byte (R297) -/
  | off9 (z : BitVec 1)
  /-- V2 `10Z`: one nibble, then one byte (R298) -/
  | off13 (z : BitVec 1)
  /-- V2 `110`: two bytes, high first (R299) -/
  | off16
  /-- V2 `111`: nothing, the offset is `REP` (R296) -/
  | rep
  deriving DecidableEq, Repr

/-- The Block Decoder's registers (R30), and the four that R274 implies between the parts of one command (log 3): the
format of the next instruction, the token's offset form and match field, and the offset fetched but not yet checked. -/
structure Dec where
  /-- `IP`, the program counter (R31) -/
  ip : Nat
  /-- `OP`, the output cursor -/
  op : Nat
  /-- `REP`, the repeat offset; 0 = none yet -/
  rep : Nat
  /-- `NIBH`: a low nibble is buffered -/
  nibh : Bool
  /-- `NIBV`: the buffered nibble -/
  nibv : BitVec 4
  /-- `DFMT` -/
  dfmt : BitVec 2
  /-- `DRAW` -/
  draw : Bool
  /-- `DINSZ` -/
  dinsz : Nat
  /-- `DOFF` -/
  doff : Nat
  /-- `DCAP` -/
  dcap : Nat
  /-- the format of the next instruction of the stream -/
  expect : Format
  /-- the offset form of the command being decoded -/
  tokForm : OffForm
  /-- the match field (`MMMM` or `MMM`) of the command being decoded -/
  tokM : Nat
  /-- the offset of the command being decoded, once fetched -/
  moff : Nat
  deriving DecidableEq, Repr

/-- One access of the host, the engine's other agent (R20, R412; log 1). -/
inductive HostAct where
  /-- poll `STATUS` until the engine is idle (R412 step 5): while `BUSY = 1` the engine moves and the access stays -/
  | await
  /-- let the engine make one move, and go on -/
  | yield
  /-- the reset event (R410, R411) -/
  | reset
  /-- read the register at a byte offset of the window (R21) -/
  | readReg (off : Nat)
  /-- write the register at a byte offset of the window (R21, R22) -/
  | writeReg (off : Nat) (v : Word)
  /-- read a byte of a buffer memory (R60) -/
  | readMem (sp : Space) (a : Nat)
  /-- write a byte of a buffer memory (R60) -/
  | writeMem (sp : Space) (a : Nat) (b : Byte)
  deriving DecidableEq, Repr

/-- The whole state. -/
structure State where
  /-- `CMD`: the word last written; the host reads it as 0 (R21, R22; log 17) -/
  cmd : Word
  /-- `STATUS.BUSY` (R23) -/
  busy : Bool
  /-- `STATUS.DONE` (R23) -/
  done : Bool
  /-- `STATUS.ERR` (R23) -/
  err : Bool
  /-- `RESULT` (R24) -/
  result : Word
  /-- `ERRCODE` (R25) -/
  errcode : ErrKind
  /-- `ARG0` (R21) -/
  arg0 : Word
  /-- `ARG1` -/
  arg1 : Word
  /-- `ARG2` -/
  arg2 : Word
  /-- `ARG3` -/
  arg3 : Word
  /-- `ARG4` -/
  arg4 : Word
  /-- `ARG5` -/
  arg5 : Word
  /-- the compressor context (R27) -/
  ctx : Ctx
  /-- the working arrays and encoder registers (R28, R32) -/
  work : Work
  /-- the decoder registers (R30) -/
  dec : Dec
  /-- the memory `WIN` (R60) -/
  win : Memory
  /-- the memory `COUT` -/
  cout : Memory
  /-- the memory `DIN` -/
  din : Memory
  /-- the memory `DOUT` -/
  dout : Memory
  /-- MODEL: the host's accesses still to come (log 1) -/
  host : List HostAct
  /-- MODEL: the value the host's last read returned (log 18) -/
  bus : Word
  /-- MODEL: the counter of the free values (log 8, log 9) -/
  serial : Nat
  /-- MODEL: the number of resets before (log 7) -/
  gen : Nat
  deriving DecidableEq, Repr

/-- Why the machine stops with a fault. -/
inductive Fault where
  /-- the host names address `a` of a memory, at or above its size (R60: "a natural number below the size"); raised by
  the host's `readMem` and `writeMem`; safe: the spec gives no such access an effect (log 11) -/
  | noSuchAddress (sp : Space) (a : Nat)
  deriving DecidableEq, Repr

/-- Why the machine refuses a step. -/
inductive Refusal where
  /-- an instruction that has no meaning yet; raised by no arm of exec, since every instruction has its meaning -/
  | notModelled (mnemonic : String)
  /-- the host writes a register, or touches a buffer memory, while `BUSY = 1` (R72 "may not", R420 "a model should refuse
  such a host step", U1 and U2: `refuse`); raised by `commandWrite`, `hostWriteReg`, `hostReadMem` and `hostWriteMem`, never
  by an instruction; safe (log 10) -/
  | hostBusy
  /-- the host names a register offset that is no aligned word (R66, U6: `refuse`); safe (log 10) -/
  | registerAccess (off : Nat)
  deriving DecidableEq, Repr

/-- The context after reset: `CTX.VALID = 0` and every other field 0 (R35, R410). -/
def Ctx.reset : Ctx :=
  { valid := false, maxwin := 0, minmatch := 0, fmt := 0#2, favor := false, raw := false, cmdcount := 0#32 }

/-- The working arrays after reset. DESIGN CHOICE (log 6): the spec leaves them unspecified and no rule reads them. -/
def Work.reset : Work :=
  { sa := [], lcp := [], ivl := [], opens := [], nc := [], cand := [], ro := [], fav := [0, 0, 0, 0], gcur := 0,
    costL := [], costM := [], bestJ := [], tok := [], eop := 0, enib := none, erep := 0 }

/-- The decoder registers after reset. DESIGN CHOICE (log 6): the spec leaves them unspecified and no rule reads them. -/
def Dec.reset : Dec :=
  { ip := 0, op := 0, rep := 0, nibh := false, nibv := 0#4, dfmt := 0#2, draw := false, dinsz := 0, doff := 0, dcap := 0,
    expect := .v1tok, tokForm := .o8, tokM := 0, moff := 0 }

/-- The machine right after reset (R35, R410): registers and context 0, memories with nothing written. -/
def State.reset : State :=
  { cmd := 0#32, busy := false, done := false, err := false, result := 0#32, errcode := .ok,
    arg0 := 0#32, arg1 := 0#32, arg2 := 0#32, arg3 := 0#32, arg4 := 0#32, arg5 := 0#32,
    ctx := Ctx.reset, work := Work.reset, dec := Dec.reset, win := [], cout := [], din := [], dout := [],
    host := [], bus := 0#32, serial := 0, gen := 0 }

end Sys2Proof.Machine
end

