-- ==== Sys2Proof/Machine/Flags.lean ====
section
/-! DEFINITION. The flags: `STATUS` as the host reads it (R23), and the code of each error kind (R25, R371). -/

namespace Sys2Proof.Machine

/-- The code of an error kind, `ERRCODE[2:0]` (R371). -/
def ErrKind.code : ErrKind → Word
  | .ok => 0#32
  | .alloc => 1#32
  | .outTooSmall => 2#32
  | .rawInputTooLarge => 3#32
  | .rawIncompressible => 4#32
  | .formatError => 5#32
  | .badArg => 6#32

/-- A flag as a one-bit number. -/
def flagBit (b : Bool) : BitVec 1 := BitVec.ofBool b

/-- `STATUS` (R23): `BUSY` bit 0, `DONE` bit 1, `ERR` bit 2, `CTX_VALID` bit 3, bits 31..4 zero. -/
def State.statusWord (s : State) : Word :=
  0#28 ++ flagBit s.ctx.valid ++ flagBit s.err ++ flagBit s.done ++ flagBit s.busy

end Sys2Proof.Machine
end

