-- ==== Sys2Proof/Machine/Ops.lean ====
section
/-! DEFINITION. The named operations over memories, registers and the stream cursors, and taking an error (R372) and
ending a command (R330), each written once. -/

namespace Sys2Proof.Machine

/-! ### The buffer memories (R60, R70, R71) -/

/-- The byte an address was last written with, if it was written. -/
def Memory.get? : Memory → Nat → Option Byte
  | [], _ => none
  | (k, b) :: m, a => if k = a then some b else Memory.get? m a

/-- The cells of a run of bytes from address `a` on. -/
def Memory.cellsAt : Nat → List Byte → Memory
  | _, [] => []
  | a, b :: bs => (a, b) :: Memory.cellsAt (a + 1) bs

/-- Writes the bytes `bs` at `a`, `a + 1`, … (R10 `MemWrite`); every other address is left alone. -/
def Memory.splice (m : Memory) (a : Nat) (bs : List Byte) : Memory :=
  m.filter (fun c => decide (c.1 < a)) ++ Memory.cellsAt a bs ++ m.filter (fun c => decide (a + bs.length ≤ c.1))

/-- Addresses strictly rising from `lo`, all below `hi`. -/
def Memory.rising (lo hi : Nat) : Memory → Bool
  | [] => true
  | (a, _) :: m => decide (lo ≤ a) && decide (a < hi) && Memory.rising (a + 1) hi m

/-- The canonical form of a memory: strictly rising addresses, each below the memory's size (R60). -/
def Memory.wf (m : Memory) : Bool := Memory.rising 0 Config.memCap m

/-- The number of a memory, for the free value of a byte nothing has written. -/
def Space.number : Space → Nat
  | .win => 0
  | .cout => 1
  | .din => 2
  | .dout => 3

/-- The memory of a space. -/
def State.memOf (s : State) : Space → Memory
  | .win => s.win
  | .cout => s.cout
  | .din => s.din
  | .dout => s.dout

/-- Replaces the memory of a space. -/
def State.withMem (s : State) (sp : Space) (m : Memory) : State :=
  match sp with
  | .win => { s with win := m }
  | .cout => { s with cout := m }
  | .din => { s with din := m }
  | .dout => { s with dout := m }

/-- What a byte reads as: the value last written (R71), or the free value of an unwritten byte (R35, R412; log 7). -/
def State.readByte (s : State) (sp : Space) (a : Nat) : Byte :=
  (Memory.get? (s.memOf sp) a).getD (Config.powerUpByte s.gen sp.number a)

/-- `MemRead(sp:a, n)` (R10): `n` bytes, lowest address first. -/
def State.readBytes (s : State) (sp : Space) : Nat → Nat → List Byte
  | _, 0 => []
  | a, n + 1 => s.readByte sp a :: State.readBytes s sp (a + 1) n

/-- `MemWrite(sp:a, _, bs)` (R10). -/
def State.writeBytes (s : State) (sp : Space) (a : Nat) (bs : List Byte) : State :=
  s.withMem sp (Memory.splice (s.memOf sp) a bs)

/-- `n` free bytes, from the counter value `k` on. -/
def freeBytes : Nat → Nat → List Byte
  | _, 0 => []
  | k, n + 1 => Config.freeByte k :: freeBytes (k + 1) n

/-- Leaves `sp[lo, hi)` unspecified (R62, R64; log 8): each byte becomes a fresh free value. -/
def State.unspecify (s : State) (sp : Space) (lo hi : Nat) : State :=
  { s.writeBytes sp lo (freeBytes s.serial (hi - lo)) with serial := s.serial + (hi - lo) }

/-! ### Starting and ending a command -/

/-- What the write of `CMD` does before the command runs (R22, R330 (1)). -/
def State.beginCommand (s : State) (w : Word) : State :=
  { s with cmd := w, busy := true, done := false, err := false, result := 0#32, errcode := .ok }

/-- TAKING AN ERROR (R372): the error is latched in `RESULT`, `ERRCODE` and `STATUS.ERR`, and the engine goes idle. The
return from it is the next `CMD` write (R383), `State.beginCommand`. -/
def State.raise (s : State) (k : ErrKind) : State :=
  { s with result := 0xFFFFFFFF#32, errcode := k, err := true, busy := false, done := true }

/-- Ending a command without an error (R330 (4), (5), R372 last sentence). -/
def State.finish (s : State) (result : Word) : State :=
  { s with result := result, errcode := .ok, err := false, busy := false, done := true }

/-- Replaces the decoder registers. -/
def State.withDec (s : State) (d : Dec) : State := { s with dec := d }

/-- The decoder waits for an instruction of format `f` next (log 3). -/
def State.expecting (s : State) (f : Format) : State := s.withDec { s.dec with expect := f }

/-- `FORMAT_ERROR` while decoding (45_block_decoder.md, opening; R374): the output range is unspecified (R64). -/
def State.formatError (s : State) : State :=
  (s.unspecify .dout s.dec.doff s.dec.dcap).raise .formatError

/-- Success of `EXPAND` (R310): the result is the number of bytes produced. -/
def State.expandDone (s : State) : State := s.finish (BitVec.ofNat 32 (s.dec.op - s.dec.doff))

/-! ### The decoder's fetch primitives -/

/-- `GetByte` (R272); `none` is its `FORMAT_ERROR` (truncated input). -/
def State.getByte (s : State) : Option (Byte × State) :=
  if s.dec.ip < s.dec.dinsz then
    some (s.readByte .din s.dec.ip, s.withDec { s.dec with ip := s.dec.ip + 1 })
  else none

/-- `GetNibble` (R273): the buffered low nibble, or the high nibble of the next byte, whose low nibble is buffered. -/
def State.getNibble (s : State) : Option (BitVec 4 × State) :=
  if s.dec.nibh then some (s.dec.nibv, s.withDec { s.dec with nibh := false })
  else
    match s.getByte with
    | some (b, s1) =>
      some (b.extractLsb' 4 4, s1.withDec { s1.dec with nibv := b.extractLsb' 0 4, nibh := true })
    | none => none

/-- The bytes of the stream from `IP` on, at most `n` of them and none at or after `DINSZ` (R63). -/
def State.streamBytes (s : State) (n : Nat) : List Byte :=
  s.readBytes .din s.dec.ip (min n (s.dec.dinsz - s.dec.ip))

/-! ### The register window (R21) -/

/-- What a host read of the register at byte offset `off` returns while the engine is idle (R21): `CMD` and the reserved
offsets read 0. -/
def State.regValue (s : State) (off : Nat) : Word :=
  if off = 0x04 then s.statusWord
  else if off = 0x08 then s.result
  else if off = 0x0C then s.errcode.code
  else if off = 0x10 then s.arg0
  else if off = 0x14 then s.arg1
  else if off = 0x18 then s.arg2
  else if off = 0x1C then s.arg3
  else if off = 0x20 then s.arg4
  else if off = 0x24 then s.arg5
  else if off = 0x28 then s.ctx.cmdcount
  else 0#32

/-- The registers that "mean nothing until `DONE = 1`" while a command runs: `RESULT`, `ERRCODE`, `CMDCOUNT` (R420). -/
def resultRegister (off : Nat) : Bool := off == 0x08 || off == 0x0C || off == 0x28

/-- What a result register reads as while a command runs, from the free value `v` (R420; log 9): `ERRCODE` still holds one
of the seven codes 0..6, so its bits 31..3 read as 0 (R25, R371); the others are free. -/
def transitionalValue (off : Nat) (v : Word) : Word := if off = 0x0C then BitVec.ofNat 32 (v.toNat % 7) else v

/-- A host read of a register (R21, R71, R420); the value comes back on `bus` (log 9, log 18). -/
def State.hostReadReg (s : State) (off : Nat) : Host.Outcome State Fault Refusal :=
  if off % 4 ≠ 0 then .refused (.registerAccess off)
  else if s.busy && resultRegister off then
    .next { s with bus := transitionalValue off (Config.freeWord s.serial), serial := s.serial + 1 }
  else .next { s with bus := s.regValue off }

/-- The reserved offsets of the window, 0x2C and above: no register stands there (R21, U7). -/
def reservedOffset (off : Nat) : Bool := decide (0x2C ≤ off)

/-- A host write of a register other than `CMD` (R21): `ARG0`..`ARG5` take the value, every other offset ignores it
(log 20). -/
def State.setReg (s : State) (off : Nat) (v : Word) : State :=
  if off = 0x10 then { s with arg0 := v }
  else if off = 0x14 then { s with arg1 := v }
  else if off = 0x18 then { s with arg2 := v }
  else if off = 0x1C then { s with arg3 := v }
  else if off = 0x20 then { s with arg4 := v }
  else if off = 0x24 then { s with arg5 := v }
  else s

/-- A host read of a byte of a buffer memory (R60, R72): only while the engine is idle. -/
def State.hostReadMem (s : State) (sp : Space) (a : Nat) : Host.Outcome State Fault Refusal :=
  if s.busy then .refused .hostBusy
  else if Config.memCap ≤ a then .fault (.noSuchAddress sp a)
  else .next { s with bus := (s.readByte sp a).setWidth 32 }

/-- A host write of a byte of a buffer memory (R60, R72): only while the engine is idle. -/
def State.hostWriteMem (s : State) (sp : Space) (a : Nat) (b : Byte) : Host.Outcome State Fault Refusal :=
  if s.busy then .refused .hostBusy
  else if Config.memCap ≤ a then .fault (.noSuchAddress sp a)
  else .next (s.writeBytes sp a [b])

/-- The reset event (R410, R411): the state after reset, with memories of fresh unspecified contents. The host's further
accesses, the value on its bus and the counters are not the engine's, and stay. -/
def State.resetEvent (s : State) : State :=
  { State.reset with host := s.host, bus := s.bus, serial := s.serial, gen := s.gen + 1 }

end Sys2Proof.Machine
end

