-- ==== Sys2Proof/Machine/Operands.lean ====
section
/-! DEFINITION. The operand forms: the inline counts of a token, the offset fields (R102, R110), and the operands of the
host commands (R8, R92). -/

namespace Sys2Proof.Machine

/-! ### Counts held in the token byte -/

/-- V1 inline literal count (R99, R279); `none`: an extension byte follows. -/
def v1Inline (lll : BitVec 3) : Option Nat := if lll.toNat < 7 then some lll.toNat else none

/-- V2 inline literal count (R107, R291); `none`: an extension nibble follows. -/
def v2Inline (ll : BitVec 2) : Option Nat := if ll.toNat < 3 then some ll.toNat else none

/-- Whether an offset form is one of format version 1. -/
def OffForm.isV1 : OffForm → Bool
  | .o8 => true
  | .o16 => true
  | .off5 _ => false
  | .off9 _ => false
  | .off13 _ => false
  | .off16 => false
  | .rep => false

/-- Inline match length of the token's match field `m` (R100, R107, R286, R300); `none`: an extension follows. -/
def OffForm.inlineMatch (f : OffForm) (m : Nat) : Option Nat :=
  if f.isV1 then (if m < 15 then some (m + 3) else none)
  else (if m < 7 then some (m + 2) else none)

/-- The format of the literal-length extension of a token (R101, R111). -/
def OffForm.litExt (f : OffForm) : Format := if f.isV1 then .v1litx else .v2litxn

/-- The format of the match-length extension of a token (R104, R116). -/
def OffForm.matchExt (f : OffForm) : Format := if f.isV1 then .v1mlx else .v2mlxn

/-- The token format of a format version (R2, R98, R106). -/
def tokenFormat (fmt : BitVec 2) : Format := if fmt = 2#2 then .v2tok else .v1tok

/-! ### The offset field -/

/-- The offset that a 16-bit `stored` value carries, `65536 - stored` (R14, R102, R110). -/
def offsetOfStored (stored : Nat) : Nat := 65536 - stored

/-- The inverted bit `z = 1 - Z` of a V2 token (R110, R290). -/
def invZ (z : BitVec 1) : Nat := 1 - z.toNat

/-- Fetches the offset field of a form (R284, R285, R295 to R299), giving the offset and the state after; `none`:
truncated input (R272). -/
def State.fetchOffset (s : State) (f : OffForm) : Option (Nat × State) :=
  match f with
  | .o8 =>
    match s.getByte with
    | some (lo, s1) => some (offsetOfStored (0xFF00 + lo.toNat), s1)
    | none => none
  | .o16 =>
    match s.getByte with
    | some (lo, s1) =>
      match s1.getByte with
      | some (hi, s2) => some (offsetOfStored (256 * hi.toNat + lo.toNat), s2)
      | none => none
    | none => none
  | .off5 z =>
    match s.getNibble with
    | some (v, s1) => some (offsetOfStored (0xFFE0 + 2 * v.toNat + invZ z), s1)
    | none => none
  | .off9 z =>
    match s.getByte with
    | some (b, s1) => some (offsetOfStored (0xFE00 + 256 * invZ z + b.toNat), s1)
    | none => none
  | .off13 z =>
    match s.getNibble with
    | some (v, s1) =>
      match s1.getByte with
      | some (b, s2) => some (offsetOfStored ((0xE000 + 512 * v.toNat + 256 * invZ z + b.toNat) - 512), s2)
      | none => none
    | none => none
  | .off16 =>
    match s.getByte with
    | some (hi, s1) =>
      match s1.getByte with
      | some (lo, s2) => some (offsetOfStored (256 * hi.toNat + lo.toNat), s2)
      | none => none
    | none => none
  | .rep => some (s.dec.rep, s)

/-! ### Operands of the host commands -/

/-- Whether a `format_version` operand is legal: 1 or 2 (R2, R331, R354). -/
def legalVersion (w : Word) : Bool := w == 1#32 || w == 2#32

/-- Whether the reserved flag bits 31..2 are 0 (R92). -/
def legalFlags (w : Word) : Bool := w.toNat / 4 == 0

/-- Flag bit 0, `FAVOR_RATIO` (R92). -/
def favorFlag (w : Word) : Bool := w.getLsbD 0

/-- Flag bit 1, `RAW_BLOCK` (R92). -/
def rawFlag (w : Word) : Bool := w.getLsbD 1

/-- The floor of the minimum match size of a format version (R333). -/
def minMatchFloor (fmt : BitVec 2) : Nat := if fmt = 2#2 then Config.minMatchV2 else Config.minMatchV1

end Sys2Proof.Machine
end

