-- ==== Sys2Proof/Machine/Decoder.lean ====
section
/-! DEFINITION. Unit 6, the Block Decoder's shared operations (45_block_decoder.md): setting up, copying literals, ending
the stream, checking and copying a match. The meaning of every token form is one of these. -/

namespace Sys2Proof.Machine

/-- The decoder's initial state, from the operands of `EXPAND` (R271). The engine stays busy. -/
def State.startDecode (s : State) : State :=
  { s with
    busy := true, done := false,
    dec := {
      ip := 0, op := s.arg3.toNat, rep := 0, nibh := false, nibv := 0#4,
      dfmt := s.arg0.setWidth 2, draw := rawFlag s.arg1, dinsz := s.arg2.toNat, doff := s.arg3.toNat,
      dcap := s.arg4.toNat, expect := tokenFormat (s.arg0.setWidth 2), tokForm := .o8, tokM := 0, moff := 0 } }

/-- The literal copy (R280); `none`: one of its two checks fails. -/
def State.copyLiterals (s : State) (n : Nat) : Option State :=
  if s.dec.dinsz < s.dec.ip + n then none
  else if s.dec.dcap < s.dec.op + n then none
  else
    some ((s.writeBytes .dout s.dec.op (s.readBytes .din s.dec.ip n)).withDec
      { s.dec with ip := s.dec.ip + n, op := s.dec.op + n })

/-- The stream ends at one of the two places where it may (R275). -/
def State.streamEnd (s : State) : State := if s.dec.draw then s.formatError else s.expandDone

/-- The EOD marker (R306). -/
def State.endOfData (s : State) : State :=
  if s.dec.draw = false then s.formatError
  else if s.dec.ip ≠ s.dec.dinsz then s.formatError
  else s.expandDone

/-- The overlapping forward copy of `n` bytes to `op` from `off` bytes back (R70, R308). -/
def State.copyForward (s : State) (off : Nat) : Nat → Nat → State
  | _, 0 => s
  | op, n + 1 => State.copyForward (s.writeBytes .dout op [s.readByte .dout (op - off)]) off (op + 1) n

/-- The match checks (R307), the copy (R308) and the update of `REP` (R309); then the next command's token. -/
def State.matchPart (s : State) (len : Nat) : State :=
  if s.dec.moff < 1 then s.formatError
  else if s.dec.op < s.dec.moff then s.formatError
  else if s.dec.dcap < s.dec.op + len then s.formatError
  else
    (s.copyForward s.dec.moff s.dec.op len).withDec
      { s.dec with op := s.dec.op + len, rep := s.dec.moff, expect := tokenFormat s.dec.dfmt }

/-- The offset field and the inline match length (R274); a match extension is waited for when the field is full. -/
def State.offsetPart (s : State) : State :=
  match s.fetchOffset s.dec.tokForm with
  | none => s.formatError
  | some (off, s1) =>
    let s2 := s1.withDec { s1.dec with moff := off }
    match s2.dec.tokForm.inlineMatch s2.dec.tokM with
    | some len => s2.matchPart len
    | none => s2.expecting s2.dec.tokForm.matchExt

/-- All that follows a known literal count (R274, R280, R275): the literals, the end of the stream, the offset. -/
def State.literalPart (s : State) (n : Nat) : State :=
  match s.copyLiterals n with
  | none => s.formatError
  | some s1 => if s1.dec.ip = s1.dec.dinsz then s1.streamEnd else s1.offsetPart

/-- A token byte (R278, R290): its form and match field are held; an inline literal count goes straight on, a full
literal field waits for its extension. -/
def State.startToken (s : State) (f : OffForm) (inlineLit : Option Nat) (m : Nat) : State :=
  let s1 := s.withDec { s.dec with tokForm := f, tokM := m }
  match inlineLit with
  | some n => s1.literalPart n
  | none => s1.expecting f.litExt

end Sys2Proof.Machine
end

