-- ==== Sys2Proof/Machine/SuffixIndex.lean ====
section
/-! DEFINITION. Unit 1, the Suffix Index (40_suffix_index.md): `BUILD_INDEX` over a window of bytes, by the definitions,
as R146 allows. -/

namespace Sys2Proof.Machine

/-- The order of suffixes (R141): bytes as unsigned numbers, a proper prefix before the longer string. -/
def suffixLt : List Byte → List Byte → Bool
  | [], [] => false
  | [], _ :: _ => true
  | _ :: _, [] => false
  | a :: x, b :: y => if a.toNat < b.toNat then true else if b.toNat < a.toNat then false else suffixLt x y

/-- The suffixes of a window, each with its position. -/
def suffixesFrom : Nat → List Byte → List (Nat × List Byte)
  | _, [] => []
  | i, b :: w => (i, b :: w) :: suffixesFrom (i + 1) w

/-- Inserts a suffix into a list that rises in the suffix order. -/
def insertSuffix (s : Nat × List Byte) : List (Nat × List Byte) → List (Nat × List Byte)
  | [] => [s]
  | t :: ts => if suffixLt t.2 s.2 then t :: insertSuffix s ts else s :: t :: ts

/-- The suffixes of the window in rising order (R141). -/
def sortedSuffixes (w : List Byte) : List (Nat × List Byte) := (suffixesFrom 0 w).foldr insertSuffix []

/-- The length of the longest common prefix (R142, `cpl` of two suffixes). -/
def commonPrefix : List Byte → List Byte → Nat
  | a :: x, b :: y => if a = b then commonPrefix x y + 1 else 0
  | _, _ => 0

/-- The suffix array `SA` (R141). -/
def suffixArray (w : List Byte) : List Nat := (sortedSuffixes w).map (fun s => s.1)

/-- Capped common prefixes of neighbours, after a first suffix. -/
def lcpAfter (prev : List Byte) : List (Nat × List Byte) → List Nat
  | [] => []
  | s :: ss => min (commonPrefix prev s.2) Config.lcpMax :: lcpAfter s.2 ss

/-- The array `LCP` of suffixes in rising order (R142): 0, then the capped common prefix with the neighbour before. -/
def lcpOf : List (Nat × List Byte) → List Nat
  | [] => []
  | s :: ss => 0 :: lcpAfter s.2 ss

/-- Closes the open intervals whose `lcp` exceeds `l` at right bound `rb`: the intervals emitted, the left bound of the
last one closed (or `lb`), and what stays open (R146). -/
def closeIntervals (l rb : Nat) : Nat → List OpenInterval → List Interval × Nat × List OpenInterval
  | lb, [] => ([], lb, [])
  | lb, o :: os =>
    if l < o.lcp then
      let r := closeIntervals l rb o.lb os
      (⟨o.lcp, o.lb, rb⟩ :: r.1, r.2)
    else ([], lb, o :: os)

/-- Opens an interval when the common prefix rises (R146). -/
def openInterval (l lb : Nat) : List OpenInterval → List OpenInterval
  | [] => [⟨l, lb⟩]
  | o :: os => if o.lcp < l then ⟨l, lb⟩ :: o :: os else o :: os

/-- The left-to-right pass over `LCP` from rank `r` on, with the stack `OPEN` (R146). -/
def intervalPass : Nat → List OpenInterval → List Nat → List Interval
  | r, opens, [] => opens.map (fun o => ⟨o.lcp, o.lb, r - 1⟩)
  | r, opens, l :: ls =>
    let c := closeIntervals l (r - 1) (r - 1) opens
    c.1 ++ intervalPass (r + 1) (openInterval l c.2.1 c.2.2) ls

/-- The Suffix Intervals of an `LCP` array (R143): the root has `lcp` 0. -/
def intervalsOf : List Nat → List Interval
  | [] => []
  | _ :: ls => intervalPass 1 [⟨0, 0⟩] ls

/-- The packed word of a length class and a position (R145): length in bits 31..17, position in bits 16..0. -/
def packWord (lengthClass position : Nat) : Word := BitVec.ofNat 15 lengthClass ++ BitVec.ofNat 17 position

/-- `BUILD_INDEX` (R140): writes `SA`, `LCP`, `IVL`, and leaves `OPEN` empty, every interval being closed. -/
def Work.buildIndex (k : Work) (w : List Byte) : Work :=
  let suffixes := sortedSuffixes w
  let lcp := lcpOf suffixes
  { k with sa := suffixes.map (fun s => s.1), lcp := lcp, ivl := intervalsOf lcp, opens := [] }

end Sys2Proof.Machine
end

