-- ==== Sys2Proof/Machine/MatchFinder.lean ====
section
/-! DEFINITION. Unit 2, the Match Finder (41_match_finder.md): `FIND_MATCHES`, in the declarative form of R163 to R165,
as R166 allows. -/

namespace Sys2Proof.Machine

/-- The match length of the suffix `t` at an earlier suffix `q` (R161): the capped common prefix. -/
def matchLen (q t : List Byte) : Nat := min (commonPrefix q t) Config.lcpMax

/-- The frontier of a position (R163, R164), nearest first: `earlier` lists the earlier suffixes from offset `off` on, and
a pair is kept when it reaches the minimum match size and is longer than every nearer one (`best`). -/
def frontier (mm : Nat) (t : List Byte) : Nat → Nat → List (List Byte) → List Cand
  | _, _, [] => []
  | best, off, q :: qs =>
    let l := matchLen q t
    if mm ≤ l ∧ best < l then ⟨l, off⟩ :: frontier mm t l (off + 1) qs
    else frontier mm t best (off + 1) qs

/-- `CAND[p]` (R165): the frontier within `MAX_OFFSET`, longest first, at most `NCAND` of it. `earlier` lists the
suffixes at `p - 1`, `p - 2`, …, 0. -/
def candidatesAt (mm : Nat) (t : List Byte) (earlier : List (List Byte)) : List Cand :=
  ((frontier mm t 0 1 (earlier.take Config.maxOffset)).reverse).take Config.ncand

/-- The candidates of every block position (R160); the first `hist` positions are history and get none. -/
def findMatchesFrom (mm : Nat) : Nat → List (List Byte) → List Byte → List (List Cand)
  | _, _, [] => []
  | 0, earlier, b :: t => candidatesAt mm (b :: t) earlier :: findMatchesFrom mm 0 ((b :: t) :: earlier) t
  | hist + 1, earlier, b :: t => findMatchesFrom mm hist ((b :: t) :: earlier) t

/-- `FIND_MATCHES` over the window `w` with `s` bytes of history (R160): element `k` is `CAND[s + k]`. -/
def findMatches (mm s : Nat) (w : List Byte) : List (List Cand) := findMatchesFrom mm s [] w

/-- `FIND_MATCHES` writes `CAND` and `NC` (R28). -/
def Work.findMatches (k : Work) (mm s : Nat) (w : List Byte) : Work :=
  let cands := Sys2Proof.Machine.findMatches mm s w
  { k with cand := cands, nc := cands.map (fun c => c.length) }

end Sys2Proof.Machine
end

