-- ==== Sys2Proof/Machine/CostModel.lean ====
section
/-! DEFINITION. The cost model of the Optimal Parser (43_optimal_parser.md section 2), and costs with the value `inf`. -/

namespace Sys2Proof.Machine

/-- `c + k`, with `inf + k = inf` (R10, R14). -/
def Cost.plus (c : Cost) (k : Nat) : Cost := c.map (fun x => x + k)

/-- `a <= b`, with `inf` above every number and `inf <= inf` (R14). -/
def Cost.le : Cost → Cost → Bool
  | _, none => true
  | none, some _ => false
  | some a, some b => decide (a ≤ b)

/-- `a < b`: not `b <= a`. -/
def Cost.lt (a b : Cost) : Bool := !(Cost.le b a)

/-- `min(a, b)`. -/
def Cost.least (a b : Cost) : Cost := if Cost.le a b then a else b

/-- `offbits(fmt, off)`, the bits of the offset field (R202). -/
def offBits (v2 : Bool) (off : Nat) : Nat :=
  if v2 then
    if off ≤ 32 then 4 else if off ≤ 512 then 8 else if off ≤ 8704 then 12 else 16
  else if off ≤ 256 then 8 else 16

/-- `mlext(fmt, len)`, the bits of the match-length extension (R203). -/
def matchExtBits (v2 : Bool) (len : Nat) : Nat :=
  if v2 then
    if len ≤ 8 then 0 else if len ≤ 23 then 4 else if len ≤ 255 then 12 else 28
  else if len ≤ 17 then 0 else if len ≤ 255 then 8 else if len ≤ 511 then 16 else 24

/-- The offset part of a header's cost (R185, R204): free in the hot slot, one bit less in a warm slot. -/
def offsetCost (v2 : Bool) (off : Nat) (slot : Option Nat) : Nat :=
  if v2 then
    match slot with
    | some 0 => 0
    | some _ => offBits true off - Config.repWarmNudge
    | none => offBits true off
  else offBits false off

/-- `hdr`, the header cost of a candidate with its favored slot (R204). -/
def headerCost (v2 : Bool) (c : Cand) (slot : Option Nat) : Nat :=
  Config.tokenBits + offsetCost v2 c.off slot + matchExtBits v2 c.len

end Sys2Proof.Machine
end

