-- ==== Sys2Proof/Machine/RepeatOffset.lean ====
section
/-! DEFINITION. Unit 4, the Repeat-Offset Optimizer (42_repeat_offset_optimizer.md): `ASSIGN_REP_SLOTS`. -/

namespace Sys2Proof.Machine

/-- The least `k` with `FAV[k] = off` (R183); `none` is `NONE`. -/
def slotOf (off : Nat) : List Nat → Option Nat
  | [] => none
  | f :: fs => if f = off then some 0 else (slotOf off fs).map (fun k => k + 1)

/-- The code of a slot, 3 bits, 4 for `NONE` (R183). -/
def RepAnn.slotCode (a : RepAnn) : Nat := a.slot.getD 4

/-- Favoring an offset (R182, R184): it moves to the front, without a second copy, and the table keeps four entries. -/
def favor (o : Nat) (fav : List Nat) : List Nat :=
  (o :: (fav.filter (fun x => decide (x ≠ o)) ++ [0, 0, 0, 0])).take Config.repSlots

/-- The annotation of a candidate (R183). -/
def annotate (fav : List Nat) (c : Cand) : RepAnn :=
  { slot := slotOf c.off fav, inOff := fav.headD 0, repCost := Config.tokenBits + matchExtBits true c.len,
    delta := offBits true c.off }

/-- What the pass leaves: the annotations, the table and the cursor. -/
structure RepPass where
  ro : List (List RepAnn)
  fav : List Nat
  gcur : Nat
  deriving DecidableEq, Repr

/-- The table and the cursor after position `p` (R182, R184). -/
def greedyMove (p : Nat) (cs : List Cand) (fav : List Nat) (gcur : Nat) : List Nat × Nat :=
  if p = gcur then
    match cs with
    | c :: _ => (favor c.off fav, p + c.len)
    | [] => (fav, p + 1)
  else (fav, gcur)

/-- The pass from position `p` on (R184). -/
def repPassFrom : Nat → List Nat → Nat → List (List Cand) → RepPass
  | _, fav, gcur, [] => ⟨[], fav, gcur⟩
  | p, fav, gcur, cs :: rest =>
    let g := greedyMove p cs fav gcur
    let r := repPassFrom (p + 1) g.1 g.2 rest
    ⟨cs.map (annotate fav) :: r.ro, r.fav, r.gcur⟩

/-- `ASSIGN_REP_SLOTS` (R180, R184): writes `RO`, `FAV`, `GCUR`. -/
def Work.assignRepSlots (k : Work) (s : Nat) : Work :=
  let r := repPassFrom s [0, 0, 0, 0] s k.cand
  { k with ro := r.ro, fav := r.fav, gcur := r.gcur }

end Sys2Proof.Machine
end

