-- ==== Sys2Proof/Machine/Parser.lean ====
section
/-! DEFINITION. Unit 3, the Optimal Parser (43_optimal_parser.md): the backward dynamic program, the walk and the Token
sequence. -/

namespace Sys2Proof.Machine

/-- The costs of a position: `COSTL`, `COSTM`, `BESTJ` (R206, R207). -/
structure PosCost where
  l : Cost
  m : Cost
  j : Option Nat
  deriving DecidableEq, Repr

/-- `nxt(L, q)` (R205), `q` being entry `k` of the positions to the right, or the end of the block. -/
def nextAfterLit (right : List PosCost) (k : Nat) : Cost :=
  match right[k]? with
  | some c => Cost.least c.l (Cost.plus c.m Config.modeSwitchPenalty)
  | none => some 0

/-- `nxt(M, q)` (R205). -/
def nextAfterMatch (right : List PosCost) (k : Nat) : Cost :=
  match right[k]? with
  | some c => Cost.least c.m (Cost.plus c.l Config.modeSwitchPenalty)
  | none => some 0

/-- The cost of taking a candidate at the position before `right` (R207). -/
def matchCost (v2 : Bool) (right : List PosCost) (c : Cand × Option Nat) : Cost :=
  Cost.plus (nextAfterMatch right (c.1.len - 1)) (headerCost v2 c.1 c.2)

/-- The best candidate (R207): a strict comparison in rising `j`. -/
def bestMatch (v2 : Bool) (right : List PosCost) : Nat → Cost × Option Nat → List (Cand × Option Nat) → Cost × Option Nat
  | _, best, [] => best
  | j, best, c :: cs =>
    let x := matchCost v2 right c
    bestMatch v2 right (j + 1) (if Cost.lt x best.1 then (x, some j) else best) cs

/-- `COSTL[p]`, `COSTM[p]`, `BESTJ[p]` at a position that is not left alone (R206, R207). -/
def posCostFull (v2 : Bool) (right : List PosCost) (cs : List (Cand × Option Nat)) : PosCost :=
  let b := bestMatch v2 right 0 (none, none) cs
  ⟨Cost.plus (nextAfterLit right 0) Config.litBits, b.1, b.2⟩

/-- `COSTL[p]`, `COSTM[p]`, `BESTJ[p]` (R206 to R208): with the favor-ratio flag clear, a position whose longest candidate
reaches `LEAVE_ALONE_LEN` is left alone. -/
def posCost (v2 fav : Bool) (right : List PosCost) (cs : List (Cand × Option Nat)) : PosCost :=
  match cs with
  | c :: _ =>
    if fav = false ∧ Config.leaveAloneLen ≤ c.1.len then ⟨none, matchCost v2 right c, some 0⟩
    else posCostFull v2 right cs
  | [] => posCostFull v2 right cs

/-- The arrays over the whole block, from the right (R209). -/
def parseCosts (v2 fav : Bool) : List (List (Cand × Option Nat)) → List PosCost
  | [] => []
  | cs :: rest =>
    let right := parseCosts v2 fav rest
    posCost v2 fav right cs :: right

/-- `COST_TOTAL` (R210). -/
def costTotal : List PosCost → Cost
  | [] => some 0
  | c :: _ => Cost.least c.l c.m

/-- The kind of a step of the walk. -/
inductive StepKind where
  | literal
  | matched
  deriving DecidableEq, Repr

/-- A step of the walk (R211). -/
inductive ParseStep where
  | lit (p : Nat)
  | mtch (p off len : Nat)
  deriving DecidableEq, Repr

/-- Whether the walk takes a literal at a position (R211), by the kind of the step before. -/
def takesLit (prev : Option StepKind) (c : PosCost) : Bool :=
  match prev with
  | none => Cost.le c.l c.m
  | some .literal => Cost.le c.l (Cost.plus c.m Config.modeSwitchPenalty)
  | some .matched => Cost.le (Cost.plus c.l Config.modeSwitchPenalty) c.m

/-- The chosen candidate of a position, `CAND[p][BESTJ[p]]` (R211). -/
def chosen (c : PosCost) (cs : List Cand) : Option Cand :=
  match c.j with
  | some j => cs[j]?
  | none => none

/-- The walk (R211) over the positions from `p` on, with `skip` positions still inside the match taken last. -/
def walk : Option StepKind → Nat → Nat → List (PosCost × List Cand) → List ParseStep
  | _, _, _, [] => []
  | prev, skip + 1, p, _ :: rest => walk prev skip (p + 1) rest
  | prev, 0, p, c :: rest =>
    match takesLit prev c.1, chosen c.1 c.2 with
    | false, some m => .mtch p m.off m.len :: walk (some .matched) (m.len - 1) (p + 1) rest
    | _, _ => .lit p :: walk (some .literal) 0 (p + 1) rest

/-- The Token sequence of the steps (R216), repeat flags not yet set. -/
def mergeSteps : List ParseStep → List Token
  | [] => []
  | .mtch _ off len :: r => .mtch off len false :: mergeSteps r
  | .lit p :: r =>
    match mergeSteps r with
    | .lit _ n :: ts => .lit p (n + 1) :: ts
    | ts => .lit p 1 :: ts

/-- The repeat flags (R217), given the offset of the match before. -/
def markRepeats : Nat → List Token → List Token
  | _, [] => []
  | e, .lit a n :: ts => .lit a n :: markRepeats e ts
  | e, .mtch off len _ :: ts => .mtch off len (decide (off = e)) :: markRepeats off ts

/-- `EREP` after the Token sequence (R217). -/
def lastOffset : Nat → List Token → Nat
  | e, [] => e
  | e, .lit _ _ :: ts => lastOffset e ts
  | _, .mtch off _ _ :: ts => lastOffset off ts

/-- Each candidate with its favored slot: none in V1, which has no optimizer (R187). -/
def slottedCands (v2 : Bool) (cand : List (List Cand)) (ro : List (List RepAnn)) : List (List (Cand × Option Nat)) :=
  if v2 then List.zipWith (fun cs as => List.zipWith (fun c a => (c, RepAnn.slot a)) cs as) cand ro
  else cand.map (fun cs => cs.map (fun c => (c, none)))

/-- `PARSE` (R200) over the candidates already found: writes `COSTL`, `COSTM`, `BESTJ`, `TOK`, and in V2 `EREP`. -/
def Work.parse (k : Work) (v2 fav : Bool) (s : Nat) : Work :=
  let costs := parseCosts v2 fav (slottedCands v2 k.cand k.ro)
  let merged := mergeSteps (walk none 0 s (costs.zip k.cand))
  { k with
    costL := costs.map (fun c => c.l), costM := costs.map (fun c => c.m), bestJ := costs.map (fun c => c.j),
    tok := if v2 then markRepeats 0 merged else merged,
    erep := if v2 then lastOffset 0 merged else k.erep }

end Sys2Proof.Machine
end

