-- ==== Sys2Proof/Machine/TokenEncoder.lean ====
section
/-! DEFINITION. Unit 5, the Token Encoder (44_token_encoder.md): `ENCODE`. -/

namespace Sys2Proof.Machine

/-- The encoder's registers and output string: `E`, whose length is `EOP`, and `ENIB` (R231, R234). -/
structure Enc where
  out : List Byte
  nib : Option Nat
  deriving DecidableEq, Repr

/-- The encoder's initial state (R231). -/
def Enc.start : Enc := ⟨[], none⟩

/-- A number as a byte. -/
def byteOf (n : Nat) : Byte := BitVec.ofNat 8 n

/-- `PutByte` of each byte of a list (R234). -/
def Enc.putBytes (e : Enc) (bs : List Byte) : Enc := { e with out := e.out ++ bs }

/-- `PutNibble` (R236): opens a pair byte, or fills the free low nibble of the one that is open. -/
def Enc.putNibble (e : Enc) (v : Nat) : Enc :=
  match e.nib with
  | none => { out := e.out ++ [byteOf (16 * v)], nib := some e.out.length }
  | some i => { out := e.out.modify i (fun b => b + byteOf v), nib := none }

/-- The match part of a command. -/
structure MatchPart where
  off : Nat
  len : Nat
  rep : Bool
  deriving DecidableEq, Repr

/-- A wire command (R96, R232): a literal run `W[ls, ls + nl)`, and a match unless it is the final command. -/
structure Command where
  ls : Nat
  nl : Nat
  match? : Option MatchPart
  deriving DecidableEq, Repr

/-- Grouping Tokens into commands (R232), with the pending literal run `W[ls, ls + nl)`; a final command is always
written. -/
def groupTokens : Nat → Nat → List Token → List Command
  | ls, nl, [] => [⟨ls, nl, none⟩]
  | _, _, .lit a n :: ts => groupTokens a n ts
  | ls, nl, .mtch off len rep :: ts => ⟨ls, nl, some ⟨off, len, rep⟩⟩ :: groupTokens 0 0 ts

/-- `lo, hi` of a 16-bit field. -/
def lohi (n : Nat) : List Byte := [byteOf (n % 256), byteOf (n / 256)]

/-- The literal bytes of a command. -/
def literalsOf (w : List Byte) (c : Command) : List Byte := (w.drop c.ls).take c.nl

/-! ### Format version 1 -/

/-- V1 literal-length extension (R237, R238). -/
def v1LitExt (nl : Nat) : List Byte :=
  if nl < 7 then []
  else if nl ≤ 255 then [byteOf (nl - 7)]
  else if nl ≤ 511 then [byteOf 250, byteOf (nl - 256)]
  else byteOf 249 :: lohi nl

/-- V1 match-length extension (R237, R240). -/
def v1MatchExt (len : Nat) : List Byte :=
  if len < 18 then []
  else if len ≤ 255 then [byteOf (len - 18)]
  else if len ≤ 511 then [byteOf 239, byteOf (len - 256)]
  else byteOf 238 :: lohi len

/-- V1 offset field (R239). -/
def v1Offset (off : Nat) : List Byte :=
  if 256 < off then lohi (65536 - off) else [byteOf ((65536 - off) % 256)]

/-- One V1 command (R237). -/
def v1Command (raw : Bool) (w : List Byte) (c : Command) : List Byte :=
  match c.match? with
  | some m =>
    byteOf (128 * (if 256 < m.off then 1 else 0) + 16 * min c.nl 7 + min (m.len - 3) 15)
      :: (v1LitExt c.nl ++ literalsOf w c ++ v1Offset m.off ++ v1MatchExt m.len)
  | none =>
    byteOf (16 * min c.nl 7 + (if raw then 15 else 0))
      :: (v1LitExt c.nl ++ literalsOf w c ++ (if raw then [0x00#8, 0xEE#8, 0x00#8, 0x00#8] else []))

/-! ### Format version 2 -/

/-- The `XYZ` field of a match (R241, R243), `st` being `65536 - off`. -/
def v2Mode (m : MatchPart) : Nat :=
  let st := 65536 - m.off
  if m.rep then 7
  else if m.off ≤ 32 then 1 - st % 2
  else if m.off ≤ 512 then 2 + (1 - st / 256 % 2)
  else if m.off ≤ 8704 then 4 + (1 - (st + 512) / 256 % 2)
  else 6

/-- V2 literal-length extension (R241, R242). -/
def Enc.putV2LitExt (e : Enc) (nl : Nat) : Enc :=
  if nl < 3 then e
  else
    let e1 := e.putNibble (min (nl - 3) 15)
    if nl < 18 then e1
    else if nl ≤ 255 then e1.putBytes [byteOf (nl - 18)]
    else e1.putBytes (byteOf 239 :: lohi nl)

/-- V2 offset field (R241, R243). -/
def Enc.putV2Offset (e : Enc) (m : MatchPart) : Enc :=
  let st := 65536 - m.off
  if m.rep then e
  else if m.off ≤ 32 then e.putNibble (st / 2 % 16)
  else if m.off ≤ 512 then e.putBytes [byteOf (st % 256)]
  else if m.off ≤ 8704 then (e.putNibble ((st + 512) / 512 % 16)).putBytes [byteOf ((st + 512) % 256)]
  else e.putBytes [byteOf (st / 256), byteOf (st % 256)]

/-- V2 match-length extension (R241, R244). -/
def Enc.putV2MatchExt (e : Enc) (len : Nat) : Enc :=
  if len < 9 then e
  else
    let e1 := e.putNibble (min (len - 9) 15)
    if len < 24 then e1
    else if len ≤ 255 then e1.putBytes [byteOf (len - 24)]
    else e1.putBytes (byteOf 233 :: lohi len)

/-- One V2 command (R241). -/
def Enc.putV2Command (raw : Bool) (w : List Byte) (e : Enc) (c : Command) : Enc :=
  match c.match? with
  | some m =>
    let e1 := e.putBytes [byteOf (32 * v2Mode m + 8 * min c.nl 3 + min (m.len - 2) 7)]
    (((e1.putV2LitExt c.nl).putBytes (literalsOf w c)).putV2Offset m).putV2MatchExt m.len
  | none =>
    let e1 := e.putBytes [byteOf (8 * min c.nl 3 + (if raw then 32 * 7 + 7 else 0))]
    let e2 := (e1.putV2LitExt c.nl).putBytes (literalsOf w c)
    if raw then (e2.putNibble 15).putBytes [0xE8#8] else e2

/-! ### The whole block -/

/-- One command of either format. -/
def Enc.putCommand (v2 raw : Bool) (w : List Byte) (e : Enc) (c : Command) : Enc :=
  if v2 then Enc.putV2Command raw w e c else e.putBytes (v1Command raw w c)

/-- `ENCODE` (R230, R232): the byte string `E` of a Token sequence, and the encoder's registers after it. -/
def encodeTokens (v2 raw : Bool) (w : List Byte) (tok : List Token) : Enc :=
  (groupTokens 0 0 tok).foldl (Enc.putCommand v2 raw w) Enc.start

end Sys2Proof.Machine
end

