-- ==== Sys2Proof/Machine/Commands.lean ====
section
/-! DEFINITION. The meanings of the host commands `INIT`, `DESTROY`, `SHRINK`, `GETCOUNT`, `EXPAND` (46_host_commands.md). -/

namespace Sys2Proof.Machine

/-- Releases the context (R331 first line, R334, R340). -/
def State.dropContext (s : State) : State :=
  { s with ctx := { s.ctx with valid := false, cmdcount := 0#32 } }

/-- `INIT` (R331, R333, R334). -/
def execInit (s : State) : Host.Outcome State Fault Refusal :=
  let s0 := s.dropContext
  if legalVersion s.arg2 = false then .next (s0.raise .badArg)
  else if legalFlags s.arg3 = false then .next (s0.raise .badArg)
  else if 255 < s.arg1.toNat then .next (s0.raise .badArg)
  else if Config.workCap < s.arg0.toNat then .next (s0.raise .alloc)
  else
    let fmt : BitVec 2 := s.arg2.setWidth 2
    let ctx : Ctx :=
      { valid := true, maxwin := s.arg0.toNat, minmatch := max s.arg1.toNat (minMatchFloor fmt), fmt := fmt,
        favor := favorFlag s.arg3, raw := rawFlag s.arg3, cmdcount := 0#32 }
    .next ({ s0 with ctx := ctx }.finish 0#32)

/-- `DESTROY` (R340). -/
def execDestroy (s : State) : Host.Outcome State Fault Refusal := .next (s.dropContext.finish 0#32)

/-- The token count as the 32-bit value of `CMDCOUNT` (R218). -/
def tokenCount (k : Work) : Word := BitVec.ofNat 32 k.tok.length

/-- The phases of `SHRINK` (R344) over the window `w` with `hist` bytes of history: the working arrays they leave, and the
byte string `E`. In V1 the Repeat-Offset Optimizer does not run (R187). -/
def compress (c : Ctx) (k : Work) (w : List Byte) (hist : Nat) : Work × List Byte :=
  let v2 := c.fmt == 2#2
  let k1 := (k.buildIndex w).findMatches c.minmatch hist w
  let k2 := if v2 then k1.assignRepSlots hist else k1
  let k3 := k2.parse v2 c.favor hist
  let e := encodeTokens v2 c.raw w k3.tok
  ({ k3 with eop := e.out.length, enib := e.nib }, e.out)

/-- The end of `SHRINK` once the phases have run (R248, R249, R342): the two size checks, then the block is written and
the rest of the output buffer is unspecified (R62). -/
def State.shrinkEnd (s : State) (inputSize cap : Nat) (out : List Byte) : State :=
  if cap < out.length then (s.unspecify .cout 0 cap).raise .outTooSmall
  else if s.ctx.raw = true ∧ inputSize ≤ out.length then (s.unspecify .cout 0 cap).raise .rawIncompressible
  else
    let s1 := (s.writeBytes .cout 0 out).unspecify .cout out.length cap
    { s1 with ctx := { s1.ctx with cmdcount := tokenCount s1.work } }.finish (BitVec.ofNat 32 out.length)

/-- `SHRINK` (R342 to R345). -/
def execShrink (s : State) : Host.Outcome State Fault Refusal :=
  if s.ctx.valid = false then .next (s.raise .badArg)
  else
    let s0 := { s with ctx := { s.ctx with cmdcount := 0#32 } }
    let hist := s.arg0.toNat
    let inputSize := s.arg1.toNat
    let cap := s.arg2.toNat
    if s.ctx.maxwin < hist + inputSize then .next (s0.raise .alloc)
    else if s.ctx.raw = true ∧ Config.rawMaxInput < inputSize then .next (s0.raise .rawInputTooLarge)
    else if s.ctx.raw = false ∧ Config.maxBlock < inputSize then .next (s0.raise .badArg)
    else if Config.memCap < cap then .next (s0.raise .badArg)
    else
      let r := compress s.ctx s.work (s.readBytes .win 0 (hist + inputSize)) hist
      .next ({ s0 with work := r.1 }.shrinkEnd inputSize cap r.2)

/-- `GETCOUNT` (R352). -/
def execGetcount (s : State) : Host.Outcome State Fault Refusal :=
  if s.ctx.valid = false then .next (s.raise .badArg) else .next (s.finish s.ctx.cmdcount)

/-- `EXPAND` (R354, R271): the operand checks, then the decoder is set up; the stream's forms run one a step (log 2). -/
def execExpand (s : State) : Host.Outcome State Fault Refusal :=
  if legalVersion s.arg0 = false then .next (s.raise .badArg)
  else if legalFlags s.arg1 = false then .next (s.raise .badArg)
  else if Config.memCap < s.arg2.toNat then .next (s.raise .badArg)
  else if Config.memCap < s.arg4.toNat then .next (s.raise .badArg)
  else if s.arg4.toNat < s.arg3.toNat then .next (s.raise .badArg)
  else .next s.startDecode

end Sys2Proof.Machine
end

