-- ==== Sys2Proof/Machine/TokensV1.lean ====
section
/-! DEFINITION. The meanings of the V1 token and extension forms (45_block_decoder.md sections 4, 5, 7). The fetch has
moved `IP` past the instruction's own bytes. -/

namespace Sys2Proof.Machine

/-- `V1.CMD8` (R278, R279, R284, R286): `off = 256 - lo`. -/
def execV1Cmd8 (lll : BitVec 3) (mmmm : BitVec 4) (s : State) : Host.Outcome State Fault Refusal :=
  .next (s.startToken .o8 (v1Inline lll) mmmm.toNat)

/-- `V1.CMD16` (R278, R279, R285, R286): `off = 65536 - (256*hi + lo)`. -/
def execV1Cmd16 (lll : BitVec 3) (mmmm : BitVec 4) (s : State) : Host.Outcome State Fault Refusal :=
  .next (s.startToken .o16 (v1Inline lll) mmmm.toNat)

/-- `V1.LITX8` (R281): `nlit = 7 + b`. -/
def execV1Litx8 (b : Byte) (s : State) : Host.Outcome State Fault Refusal := .next (s.literalPart (7 + b.toNat))

/-- `V1.LITX9` (R282): `nlit = 256 + c`. -/
def execV1Litx9 (c : Byte) (s : State) : Host.Outcome State Fault Refusal := .next (s.literalPart (256 + c.toNat))

/-- `V1.LITX16` (R283): `nlit = lo + 256*hi`. -/
def execV1Litx16 (v : BitVec 16) (s : State) : Host.Outcome State Fault Refusal := .next (s.literalPart v.toNat)

/-- `V1.MLX8` (R287): `mlen = 18 + b`. -/
def execV1Mlx8 (b : Byte) (s : State) : Host.Outcome State Fault Refusal := .next (s.matchPart (18 + b.toNat))

/-- `V1.MLX9` (R288): `mlen = 256 + c`. -/
def execV1Mlx9 (c : Byte) (s : State) : Host.Outcome State Fault Refusal := .next (s.matchPart (256 + c.toNat))

/-- `V1.MLX16` (R289): `mlen = lo + 256*hi`, which is not 0. -/
def execV1Mlx16 (v : BitVec 16) (s : State) : Host.Outcome State Fault Refusal := .next (s.matchPart v.toNat)

/-- `V1.EOD` (R289, R306). -/
def execV1Eod (s : State) : Host.Outcome State Fault Refusal := .next s.endOfData

end Sys2Proof.Machine
end

