-- ==== Sys2Proof/Machine/TokensV2.lean ====
section
/-! DEFINITION. The meanings of the V2 token and extension forms (45_block_decoder.md sections 5 to 7). The fetch has
moved `IP`, or taken the buffered nibble, past the instruction's own bytes. -/

namespace Sys2Proof.Machine

/-- `V2.OFF5` (R290, R291, R295, R300): `off = 32 - 2*v - z`. -/
def execV2Off5 (z : BitVec 1) (ll : BitVec 2) (mmm : BitVec 3) (s : State) : Host.Outcome State Fault Refusal :=
  .next (s.startToken (.off5 z) (v2Inline ll) mmm.toNat)

/-- `V2.OFF9` (R290, R291, R297, R300): `off = 512 - 256*z - b`. -/
def execV2Off9 (z : BitVec 1) (ll : BitVec 2) (mmm : BitVec 3) (s : State) : Host.Outcome State Fault Refusal :=
  .next (s.startToken (.off9 z) (v2Inline ll) mmm.toNat)

/-- `V2.OFF13` (R290, R291, R298, R300): `off = 8704 - 512*v - 256*z - b`. -/
def execV2Off13 (z : BitVec 1) (ll : BitVec 2) (mmm : BitVec 3) (s : State) : Host.Outcome State Fault Refusal :=
  .next (s.startToken (.off13 z) (v2Inline ll) mmm.toNat)

/-- `V2.OFF16` (R290, R291, R299, R300): `off = 65536 - (256*hi + lo)`, high byte first. -/
def execV2Off16 (ll : BitVec 2) (mmm : BitVec 3) (s : State) : Host.Outcome State Fault Refusal :=
  .next (s.startToken .off16 (v2Inline ll) mmm.toNat)

/-- `V2.REP` (R290, R291, R296, R300): `off = REP`. -/
def execV2Rep (ll : BitVec 2) (mmm : BitVec 3) (s : State) : Host.Outcome State Fault Refusal :=
  .next (s.startToken .rep (v2Inline ll) mmm.toNat)

/-- `V2.LITXN` (R292): `nlit = 3 + v`. -/
def execV2Litxn (v : BitVec 4) (s : State) : Host.Outcome State Fault Refusal := .next (s.literalPart (3 + v.toNat))

/-- `V2.LITX8` (R293): `nlit = 18 + b`. -/
def execV2Litx8 (b : Byte) (s : State) : Host.Outcome State Fault Refusal := .next (s.literalPart (18 + b.toNat))

/-- `V2.LITX16` (R294): `nlit = lo + 256*hi`. -/
def execV2Litx16 (v : BitVec 16) (s : State) : Host.Outcome State Fault Refusal := .next (s.literalPart v.toNat)

/-- `V2.MLXN` (R301): `mlen = 9 + v`. -/
def execV2Mlxn (v : BitVec 4) (s : State) : Host.Outcome State Fault Refusal := .next (s.matchPart (9 + v.toNat))

/-- `V2.MLX8` (R302): `mlen = 24 + b`. -/
def execV2Mlx8 (b : Byte) (s : State) : Host.Outcome State Fault Refusal := .next (s.matchPart (24 + b.toNat))

/-- `V2.EOD` (R304, R306). -/
def execV2Eod (s : State) : Host.Outcome State Fault Refusal := .next s.endOfData

/-- `V2.MLX16` (R303): `mlen = lo + 256*hi`; 0 is a `FORMAT_ERROR`. -/
def execV2Mlx16 (v : BitVec 16) (s : State) : Host.Outcome State Fault Refusal :=
  if v.toNat = 0 then .next s.formatError else .next (s.matchPart v.toNat)

end Sys2Proof.Machine
end

