-- ==== Sys2Proof/Machine/Dispatch.lean ====
section
/-! DEFINITION. The dispatch: one arm per instruction, each one call of its meaning. -/

namespace Sys2Proof.Machine

def exec (i : Instr) (s : State) : Host.Outcome State Fault Refusal :=
  match i with
  | .init => Sys2Proof.Machine.execInit s
  | .destroy => Sys2Proof.Machine.execDestroy s
  | .shrink => Sys2Proof.Machine.execShrink s
  | .getcount => Sys2Proof.Machine.execGetcount s
  | .expand => Sys2Proof.Machine.execExpand s
  | .v1Cmd8 lll mmmm => Sys2Proof.Machine.execV1Cmd8 lll mmmm s
  | .v1Cmd16 lll mmmm => Sys2Proof.Machine.execV1Cmd16 lll mmmm s
  | .v1Litx8 b => Sys2Proof.Machine.execV1Litx8 b s
  | .v1Litx9 c => Sys2Proof.Machine.execV1Litx9 c s
  | .v1Litx16 v => Sys2Proof.Machine.execV1Litx16 v s
  | .v1Mlx8 b => Sys2Proof.Machine.execV1Mlx8 b s
  | .v1Mlx9 c => Sys2Proof.Machine.execV1Mlx9 c s
  | .v1Mlx16 v => Sys2Proof.Machine.execV1Mlx16 v s
  | .v1Eod => Sys2Proof.Machine.execV1Eod s
  | .v2Off5 z ll mmm => Sys2Proof.Machine.execV2Off5 z ll mmm s
  | .v2Off9 z ll mmm => Sys2Proof.Machine.execV2Off9 z ll mmm s
  | .v2Off13 z ll mmm => Sys2Proof.Machine.execV2Off13 z ll mmm s
  | .v2Off16 ll mmm => Sys2Proof.Machine.execV2Off16 ll mmm s
  | .v2Rep ll mmm => Sys2Proof.Machine.execV2Rep ll mmm s
  | .v2Litxn v => Sys2Proof.Machine.execV2Litxn v s
  | .v2Litx8 b => Sys2Proof.Machine.execV2Litx8 b s
  | .v2Litx16 v => Sys2Proof.Machine.execV2Litx16 v s
  | .v2Mlxn v => Sys2Proof.Machine.execV2Mlxn v s
  | .v2Mlx8 b => Sys2Proof.Machine.execV2Mlx8 b s
  | .v2Eod => Sys2Proof.Machine.execV2Eod s
  | .v2Mlx16 v => Sys2Proof.Machine.execV2Mlx16 v s

end Sys2Proof.Machine
end

