-- ==== Sys2Proof/Machine/Fetch.lean ====
section
/-! DEFINITION. Fetching the next instruction of the token stream at `IP` (R31, R272 to R276). -/

namespace Sys2Proof.Machine

/-- What the decoder finds at `IP`. -/
inductive Fetched where
  /-- an instruction; the state has moved past its bytes or its nibble -/
  | instr (i : Instr) (s : State)
  /-- a nibble of 15: the length goes on with a byte (R293, R294, R302 to R304) -/
  | escape (s : State)
  /-- `IP = DINSZ` where a token may stand (R274, R275) -/
  | streamEnd
  /-- a field is missing or reserved (R120, R272) -/
  | formatError
  deriving DecidableEq, Repr

/-- Whether a format is a token byte, before which the stream may end (R274). -/
def tokenExpected : Format → Bool
  | .v1tok => true
  | .v2tok => true
  | _ => false

/-- Fetches a nibble form (R292, R301) through the nibble buffer (R273). -/
def State.fetchNibble (s : State) : Fetched :=
  match s.getNibble with
  | none => .formatError
  | some (v, s1) =>
    match decode s.dec.expect [0#4 ++ v] with
    | .instr i _ => .instr i s1
    | .escape f => .escape (s1.expecting f)
    | .rejected _ => .formatError

/-- Fetches a form of whole bytes, each byte by `GetByte` (R272): `IP` moves past the instruction's bytes. -/
def State.fetchBytes (s : State) : Fetched :=
  match decode s.dec.expect (s.streamBytes 3) with
  | .instr i n => .instr i (s.withDec { s.dec with ip := s.dec.ip + n })
  | .escape _ => .formatError
  | .rejected _ => .formatError

/-- The fetch: the end of the stream, a nibble form or a form of whole bytes. -/
def State.fetch (s : State) : Fetched :=
  if tokenExpected s.dec.expect ∧ s.dec.ip = s.dec.dinsz then .streamEnd
  else if s.dec.expect.isNibble then s.fetchNibble
  else s.fetchBytes

end Sys2Proof.Machine
end

