-- ==== Sys2Proof/Machine/Engine.lean ====
section
/-! DEFINITION. The moves of the two agents: the engine's next instruction, and an access of the host (R20, R75). -/

namespace Sys2Proof.Machine

/-- The engine's move while `BUSY = 1`: the Block Decoder's next instruction (R274). -/
def engineMove (s : State) : Host.Outcome State Fault Refusal :=
  match s.fetch with
  | .instr i s1 => exec i s1
  | .escape s1 => .next s1
  | .streamEnd => .next s.streamEnd
  | .formatError => .next s.formatError

/-- A write of `CMD` (R22, R330): the command of the word runs; a reserved opcode ends with `BAD_ARG` (R93). While
`BUSY = 1` the host step is refused (R420). -/
def commandWrite (s : State) (w : Word) : Host.Outcome State Fault Refusal :=
  if s.busy then .refused .hostBusy
  else
    match decode .cmdw (bytesOfWord w) with
    | .instr i _ => exec i (s.beginCommand w)
    | .escape _ => .next ((s.beginCommand w).raise .badArg)
    | .rejected _ => .next ((s.beginCommand w).raise .badArg)

/-- A host write at an offset of the window (R21, R22). A write at a reserved offset is ignored in every state (R21, U7);
a write of a register while `BUSY = 1` is refused (R72 "or write any register", R420; log 10). -/
def hostWriteReg (s : State) (off : Nat) (v : Word) : Host.Outcome State Fault Refusal :=
  if off % 4 ≠ 0 then .refused (.registerAccess off)
  else if reservedOffset off then .next s
  else if off = 0x00 then commandWrite s v
  else if s.busy then .refused .hostBusy
  else .next (s.setReg off v)

/-- The engine moves if it is busy, and is idle otherwise (R410: it "executes nothing until the host writes CMD"). -/
def engineTurn (s : State) : Host.Outcome State Fault Refusal := if s.busy then engineMove s else .next s

/-- One access of the host, `s` being the state with the access taken off the list (log 1). -/
def hostTurn (s : State) : HostAct → Host.Outcome State Fault Refusal
  | .await => engineTurn s
  | .yield => engineTurn s
  | .reset => .next s.resetEvent
  | .readReg off => s.hostReadReg off
  | .writeReg off v => hostWriteReg s off v
  | .readMem sp a => s.hostReadMem sp a
  | .writeMem sp a b => s.hostWriteMem sp a b

/-- The next move of the two agents: a poll stays on the list until the engine is idle (R412 step 5). -/
def nextMove (s : State) : Host.Outcome State Fault Refusal :=
  match s.host with
  | [] => engineTurn s
  | a :: rest => if a = .await ∧ s.busy = true then engineMove s else hostTurn { s with host := rest } a

/-- The state in which the next move fetches and runs a table word (log 5): a command word is the host's next write of
`CMD`; a stream word stands at `IP` in `DIN`, with zeros after it, and the decoder expects its format. -/
def State.placeWord (s : State) (nbits w : Nat) : State :=
  let f := tableFormat nbits w
  if f = .cmdw then { s with busy := false, host := .writeReg 0x00 (BitVec.ofNat 32 w) :: s.host }
  else
    { s with
      busy := true, host := .await :: s.host,
      din := Memory.splice s.din s.dec.ip (tableBytes nbits w),
      dec := { s.dec with
        dinsz := max s.dec.dinsz (s.dec.ip + 4), expect := f,
        dfmt := if f = .v1litx ∨ f = .v1mlx then 1#2 else 2#2,
        nibh := f.isNibble, nibv := BitVec.ofNat 4 w } }

end Sys2Proof.Machine
end

