-- ==== Sys2Proof/Machine/Step.lean ====
section
/-! DEFINITION. One step of the machine: the next move of its two agents (R20, R75). -/

namespace Sys2Proof.Machine

/-- One step: the host's next access, or the engine's next instruction. -/
def step (s : State) : Host.Outcome State Fault Refusal := nextMove s

/-- `s` with a table word of `nbits` bits stored where `step` fetches its next instruction (log 5). -/
def State.withFetchWord (s : State) (nbits w : Nat) : State := s.placeWord nbits w

end Sys2Proof.Machine
end

