-- ==== Sys2Proof/Safety.lean ====
section
/-! DEFINITION. The terms the statements use: the invariant of the machine, what each token form fixes on the wire by the
rules of 45_block_decoder.md, the replay of a Token sequence (R219) and the greedy parse (R220). No meaning calls them. -/

namespace Sys2Proof.Machine

/-! ### The invariant -/

/-- Every memory of a state is in canonical form (R60). -/
abbrev State.memoriesWf (s : State) : Prop := ∀ sp : Space, Memory.wf (s.memOf sp) = true

/-- The decoder registers of a running `EXPAND` are in their ranges (R30, R31): `IP` stays in the input, `OP` between
`out_offset` and `out_capacity`, offsets in 17 bits, and the decoder waits for a form of the stream. -/
def Dec.inRange (d : Dec) : Prop :=
  d.ip ≤ d.dinsz ∧ d.dinsz ≤ Config.memCap ∧ d.doff ≤ d.op ∧ d.op ≤ d.dcap ∧ d.dcap ≤ Config.memCap ∧
    d.rep ≤ 65536 ∧ d.moff ≤ 65536 ∧ (d.dfmt = 1#2 ∨ d.dfmt = 2#2) ∧ d.expect ≠ .cmdw

/-- The context's legal values (R27), and no token count without a context (R26). -/
def Ctx.legal (c : Ctx) : Prop :=
  (c.valid = true → c.maxwin ≤ Config.workCap ∧ minMatchFloor c.fmt ≤ c.minmatch ∧ c.minmatch ≤ 255 ∧
    (c.fmt = 1#2 ∨ c.fmt = 2#2)) ∧
  (c.valid = false → c.cmdcount = 0#32)

/-- What holds of every state a run reaches: canonical memories; while `BUSY = 1` the decoder's registers in range and
the result registers cleared (R22); `ERR` exactly for an error kind (R23), whose `RESULT` is −1 (R24); a legal context. -/
structure State.Inv (s : State) : Prop where
  memories : s.memoriesWf
  decoder : s.busy = true → s.dec.inRange
  cleared : s.busy = true → s.done = false ∧ s.err = false ∧ s.result = 0#32 ∧ s.errcode = .ok
  flag : s.err = true ↔ s.errcode ≠ .ok
  minusOne : s.errcode ≠ .ok → s.result = 0xFFFFFFFF#32
  context : s.ctx.legal

/-! ### What a token form fixes on the wire -/

/-- A command whose literal count is known: the count, the offset form and the match field. -/
structure LiteralKnown where
  nlit : Nat
  form : OffForm
  field : Nat
  deriving DecidableEq, Repr

/-- The literal count an instruction settles, with the offset form and match field of its command: a token whose literal
field is not full (R279, R291), or a literal extension (R281 to R283, R292 to R294) of the token held in `d`. -/
def literalKnown (d : Dec) : Instr → Option LiteralKnown
  | .v1Cmd8 lll m => if lll.toNat < 7 then some ⟨lll.toNat, .o8, m.toNat⟩ else none
  | .v1Cmd16 lll m => if lll.toNat < 7 then some ⟨lll.toNat, .o16, m.toNat⟩ else none
  | .v1Litx8 b => some ⟨7 + b.toNat, d.tokForm, d.tokM⟩
  | .v1Litx9 c => some ⟨256 + c.toNat, d.tokForm, d.tokM⟩
  | .v1Litx16 v => some ⟨v.toNat, d.tokForm, d.tokM⟩
  | .v2Off5 z ll m => if ll.toNat < 3 then some ⟨ll.toNat, .off5 z, m.toNat⟩ else none
  | .v2Off9 z ll m => if ll.toNat < 3 then some ⟨ll.toNat, .off9 z, m.toNat⟩ else none
  | .v2Off13 z ll m => if ll.toNat < 3 then some ⟨ll.toNat, .off13 z, m.toNat⟩ else none
  | .v2Off16 ll m => if ll.toNat < 3 then some ⟨ll.toNat, .off16, m.toNat⟩ else none
  | .v2Rep ll m => if ll.toNat < 3 then some ⟨ll.toNat, .rep, m.toNat⟩ else none
  | .v2Litxn v => some ⟨3 + v.toNat, d.tokForm, d.tokM⟩
  | .v2Litx8 b => some ⟨18 + b.toNat, d.tokForm, d.tokM⟩
  | .v2Litx16 v => some ⟨v.toNat, d.tokForm, d.tokM⟩
  | _ => none

/-- A token whose literal field is full, so that an extension follows (R101, R111): its offset form, match field and the
format of the extension. -/
def literalWaits : Instr → Option (OffForm × Nat × Format)
  | .v1Cmd8 lll m => if lll.toNat = 7 then some (.o8, m.toNat, .v1litx) else none
  | .v1Cmd16 lll m => if lll.toNat = 7 then some (.o16, m.toNat, .v1litx) else none
  | .v2Off5 z ll m => if ll.toNat = 3 then some (.off5 z, m.toNat, .v2litxn) else none
  | .v2Off9 z ll m => if ll.toNat = 3 then some (.off9 z, m.toNat, .v2litxn) else none
  | .v2Off13 z ll m => if ll.toNat = 3 then some (.off13 z, m.toNat, .v2litxn) else none
  | .v2Off16 ll m => if ll.toNat = 3 then some (.off16, m.toNat, .v2litxn) else none
  | .v2Rep ll m => if ll.toNat = 3 then some (.rep, m.toNat, .v2litxn) else none
  | _ => none

/-- The match length a match extension gives (R287 to R289, R301 to R303). -/
def extendedMatchLength : Instr → Option Nat
  | .v1Mlx8 b => some (18 + b.toNat)
  | .v1Mlx9 c => some (256 + c.toNat)
  | .v1Mlx16 v => some v.toNat
  | .v2Mlxn v => some (9 + v.toNat)
  | .v2Mlx8 b => some (24 + b.toNat)
  | .v2Mlx16 v => some v.toNat
  | _ => none

/-- The match length of a match field that is not full (R286: `MMMM + 3` below 15; R300: `MMM + 2` below 7). -/
def inlineMatchLength (f : OffForm) (field : Nat) : Option Nat :=
  match f with
  | .o8 => if field < 15 then some (field + 3) else none
  | .o16 => if field < 15 then some (field + 3) else none
  | _ => if field < 7 then some (field + 2) else none

/-- The format of the match extension of a command (R104, R116). -/
def matchExtensionFormat (f : OffForm) : Format :=
  match f with
  | .o8 => .v1mlx
  | .o16 => .v1mlx
  | _ => .v2mlxn

/-- Instructions of the token stream: all but the five host commands. -/
def isStreamForm (i : Instr) : Bool := decide (i.format ≠ Format.cmdw)

/-- An offset field on the wire: the offset, and the cursor and nibble buffer after it. -/
structure WireOffset where
  off : Nat
  ip : Nat
  nibh : Bool
  nibv : BitVec 4
  deriving DecidableEq, Repr

/-- The next nibble of the stream at byte `p` (R273): its value, and the cursor and buffer after it. -/
def wireNibble (s : State) (p : Nat) : Option (Nat × Nat × Bool × BitVec 4) :=
  if s.dec.nibh then some (s.dec.nibv.toNat, p, false, s.dec.nibv)
  else if p < s.dec.dinsz then
    some ((s.readByte .din p).toNat / 16, p + 1, true, BitVec.ofNat 4 ((s.readByte .din p).toNat % 16))
  else none

/-- The offset field of a form that starts at byte `p` of the stream, by the closed formulas of R284, R285 and R295 to
R299; `none`: the field is truncated. -/
def wireOffset (s : State) (p : Nat) : OffForm → Option WireOffset
  | .o8 =>
    if p < s.dec.dinsz then some ⟨256 - (s.readByte .din p).toNat, p + 1, s.dec.nibh, s.dec.nibv⟩ else none
  | .o16 =>
    if p + 1 < s.dec.dinsz then
      some ⟨65536 - (256 * (s.readByte .din (p + 1)).toNat + (s.readByte .din p).toNat), p + 2, s.dec.nibh, s.dec.nibv⟩
    else none
  | .off5 z =>
    match wireNibble s p with
    | some (v, q, h, n) => some ⟨32 - 2 * v - (1 - z.toNat), q, h, n⟩
    | none => none
  | .off9 z =>
    if p < s.dec.dinsz then
      some ⟨512 - 256 * (1 - z.toNat) - (s.readByte .din p).toNat, p + 1, s.dec.nibh, s.dec.nibv⟩
    else none
  | .off13 z =>
    match wireNibble s p with
    | some (v, q, h, n) =>
      if q < s.dec.dinsz then
        some ⟨8704 - 512 * v - 256 * (1 - z.toNat) - (s.readByte .din q).toNat, q + 1, h, n⟩
      else none
    | none => none
  | .off16 =>
    if p + 1 < s.dec.dinsz then
      some ⟨65536 - (256 * (s.readByte .din p).toNat + (s.readByte .din (p + 1)).toNat), p + 2, s.dec.nibh, s.dec.nibv⟩
    else none
  | .rep => some ⟨s.dec.rep, p, s.dec.nibh, s.dec.nibv⟩

/-- The state once `nlit` literals are copied from `IP` to `OP` (R280). -/
def State.literalsCopied (s : State) (nlit : Nat) : State :=
  s.writeBytes .dout s.dec.op (s.readBytes .din s.dec.ip nlit)

/-- `t` is an end of `EXPAND` with `FORMAT_ERROR` from `s` (R64, R372, R374): the error is latched, and nothing else has
changed but the decoder's registers, bytes of `DOUT` in `[out_offset, out_capacity)` and the counter of free values. -/
structure FormatErrorFrom (s t : State) : Prop where
  rest : t = { s with
    result := 0xFFFFFFFF#32, errcode := .formatError, err := true, busy := false, done := true,
    dec := t.dec, dout := t.dout, serial := t.serial }
  bytes : ∀ a, (a < s.dec.doff ∨ s.dec.dcap ≤ a) → t.readByte .dout a = s.readByte .dout a

/-- It is the engine's turn to move: it is busy, and the host has nothing to do but poll (log 1). -/
def State.engineTurnNext (s : State) : Prop := s.busy = true ∧ (s.host = [] ∨ ∃ rest, s.host = .await :: rest)

/-- The host's next access is `a` (log 1). -/
def State.hostTurnNext (s : State) (a : HostAct) (rest : List HostAct) : Prop := s.host = a :: rest

/-- `x` is a running `EXPAND` at its first token, its registers as R271 sets them, over the block `block` in `DIN` and the
history `hist` in `DOUT`. -/
structure StartsExpand (x : State) (fmt : BitVec 2) (raw : Bool) (block hist : List Byte) (cap : Nat) : Prop where
  running : x.busy = true
  polled : x.host = []
  decoder : x.dec = {
    ip := 0, op := hist.length, rep := 0, nibh := false, nibv := 0#4, dfmt := fmt, draw := raw, dinsz := block.length,
    doff := hist.length, dcap := cap, expect := tokenFormat fmt, tokForm := .o8, tokM := 0, moff := 0 }
  stream : x.readBytes .din 0 block.length = block
  history : x.readBytes .dout 0 hist.length = hist

/-! ### The Suffix Index -/

/-- `v` is a Suffix Interval of the array `lcp` (R143): the root, or a maximal range of ranks whose entries after the
first are at least `v.lcp`, one of them equal to it. -/
def isSuffixInterval (lcp : List Nat) (v : Interval) : Prop :=
  v.lcp = 0 ∧ v.lb = 0 ∧ v.rb + 1 = lcp.length ∨
  1 ≤ v.lcp ∧ v.lb < v.rb ∧ v.rb < lcp.length ∧
    (∀ r, v.lb < r → r ≤ v.rb → v.lcp ≤ lcp.getD r 0) ∧
    (∃ r, v.lb < r ∧ r ≤ v.rb ∧ lcp.getD r 0 = v.lcp) ∧
    lcp.getD v.lb 0 < v.lcp ∧ (v.rb + 1 = lcp.length ∨ lcp.getD (v.rb + 1) 0 < v.lcp)

/-! ### The parser's properties -/

/-- `len` bytes appended one at a time, each from `off` bytes back (R219, R308). -/
def copyBack (off : Nat) : Nat → List Byte → List Byte
  | 0, out => out
  | len + 1, out => copyBack off len (out ++ [out.getD (out.length - off) 0#8])

/-- Replaying Tokens on an output that already holds `out` (R219). -/
def replay (w : List Byte) : List Byte → List Token → List Byte
  | out, [] => out
  | out, .lit a n :: ts => replay w (out ++ (w.drop a).take n) ts
  | out, .mtch off len _ :: ts => replay w (copyBack off len out) ts

/-- The penalty between two steps (R201): 3 where the kind changes, 0 at the start and where it does not. -/
def switchCost (prev : Option StepKind) (k : StepKind) : Nat :=
  match prev with
  | none => 0
  | some q => if q = k then 0 else Config.modeSwitchPenalty

/-- The model cost of the greedy parse (R220): candidate 0 at its full length where there is one, else one literal. -/
def greedyCost (v2 : Bool) : Option StepKind → Nat → List (List (Cand × Option Nat)) → Nat
  | _, _, [] => 0
  | prev, skip + 1, _ :: rest => greedyCost v2 prev skip rest
  | prev, 0, [] :: rest => switchCost prev .literal + Config.litBits + greedyCost v2 (some .literal) 0 rest
  | prev, 0, (c :: _) :: rest =>
    switchCost prev .matched + headerCost v2 c.1 c.2 + greedyCost v2 (some .matched) (c.1.len - 1) rest

/-- The model cost of a parse (R201) given by one choice per position, `none` a literal and `some j` candidate `j` at its
full length; choices inside a match are not looked at. `none` where a choice names no candidate. -/
def choiceCost (v2 : Bool) : Option StepKind → Nat → List (List (Cand × Option Nat)) → List (Option Nat) → Option Nat
  | _, _, [], _ => some 0
  | _, _, _ :: _, [] => none
  | prev, skip + 1, _ :: rest, _ :: ch => choiceCost v2 prev skip rest ch
  | prev, 0, _ :: rest, none :: ch =>
    (choiceCost v2 (some .literal) 0 rest ch).map (fun x => switchCost prev .literal + Config.litBits + x)
  | prev, 0, cs :: rest, some j :: ch =>
    match cs[j]? with
    | some c =>
      (choiceCost v2 (some .matched) (c.1.len - 1) rest ch).map
        (fun x => switchCost prev .matched + headerCost v2 c.1 c.2 + x)
    | none => none

/-! ### The arrays and the walk of a `SHRINK` (R205 to R211), restated by position -/

/-- `x` is the least of `a + ka` and `b + kb`, `none` being `inf` (R10, R14). -/
def leastOf (x : Nat) (a : Cost) (ka : Nat) (b : Cost) (kb : Nat) : Prop :=
  (a.map (· + ka) = some x ∨ b.map (· + kb) = some x) ∧ (∀ y, a = some y → x ≤ y + ka) ∧ (∀ y, b = some y → x ≤ y + kb)

/-- The three arrays of the dynamic program at block position `k`. -/
def Work.costsAt (r : Work) (k : Nat) : Option PosCost :=
  match r.costL[k]?, r.costM[k]?, r.bestJ[k]? with
  | some l, some m, some j => some ⟨l, m, j⟩
  | _, _, _ => none

/-- `CAND[p][j]` at block position `k`. -/
def Work.candAt (r : Work) (k j : Nat) : Option Cand := r.cand[k]?.bind (fun cs => cs[j]?)

/-- `RO[p][j]` at block position `k`. -/
def Work.annAt (r : Work) (k j : Nat) : Option RepAnn := r.ro[k]?.bind (fun as => as[j]?)

/-- `hdr(p, j)` of `CAND[p][j] = c` (R204): in V2 with the slot of `RO[p][j]`, in V1 with none (R187). -/
def Work.headerAt (r : Work) (v2 : Bool) (k j : Nat) (c : Cand) : Nat :=
  headerCost v2 c (if v2 then (r.annAt k j).bind RepAnn.slot else none)

/-- `x = nxt(kind, q)` (R205): 0 at the end of the block, else the least of the two costs at `q`, the penalty on the other
kind. -/
def Work.isNext (r : Work) (kind : StepKind) (q x : Nat) : Prop :=
  r.cand.length ≤ q ∧ x = 0 ∨
  q < r.cand.length ∧ ∃ c, r.costsAt q = some c ∧
    match kind with
    | .literal => leastOf x c.l 0 c.m 3
    | .matched => leastOf x c.m 0 c.l 3

/-- With the favor-ratio flag clear, a position whose longest candidate has 512 bytes or more is left alone (R208). -/
def leftAlone (fav : Bool) (cs : List Cand) : Prop := fav = false ∧ ∃ c, cs.head? = some c ∧ 512 ≤ c.len

/-- `a + ka <= b + kb`, `none` being `inf` (R14, R211: "`inf <= inf` true and `inf + 3 = inf`"). -/
def costAtMost (a : Cost) (ka : Nat) (b : Cost) (kb : Nat) : Prop :=
  b = none ∨ ∃ x y, a = some x ∧ b = some y ∧ x + ka ≤ y + kb

/-- The test `lit` of the walk (R211): a literal wins at exact equality, the penalty being on the side it applies to. -/
def literalChosen (prev : Option StepKind) (c : PosCost) : Prop :=
  match prev with
  | none => costAtMost c.l 0 c.m 0
  | some .literal => costAtMost c.l 0 c.m 3
  | some .matched => costAtMost c.l 3 c.m 0

/-- The steps from block position `k` on are those of the walk of R211 over the arrays of `r` (the history is `s` bytes),
they end at the end of the block, and their model cost (R201) is `x`. -/
def Work.walks (r : Work) (v2 : Bool) (s : Nat) : Option StepKind → Nat → List ParseStep → Nat → Prop
  | _, k, [], x => k = r.cand.length ∧ x = 0
  | prev, k, .lit p :: steps, x =>
    p = s + k ∧ ∃ c y, r.costsAt k = some c ∧ literalChosen prev c ∧
      r.walks v2 s (some .literal) (k + 1) steps y ∧ x = switchCost prev .literal + Config.litBits + y
  | prev, k, .mtch p off len :: steps, x =>
    p = s + k ∧ ∃ c j m y, r.costsAt k = some c ∧ ¬ literalChosen prev c ∧ c.j = some j ∧ r.candAt k j = some m ∧
      m.off = off ∧ m.len = len ∧ r.walks v2 s (some .matched) (k + len) steps y ∧
      x = switchCost prev .matched + r.headerAt v2 k j m + y

/-- The steps a Token sequence stands for, from position `p` on (R216). -/
def tokenSteps : Nat → List Token → List ParseStep
  | _, [] => []
  | p, .lit a n :: ts => (List.range n).map (fun i => ParseStep.lit (a + i)) ++ tokenSteps (p + n) ts
  | p, .mtch off len _ :: ts => .mtch p off len :: tokenSteps (p + len) ts

/-- The annotations of the candidates `cs` with the favored table `fav` (R183): the least slot that holds the offset, the
hot offset, and the two costs. -/
def annotated (fav : List Nat) (cs : List Cand) (as : List RepAnn) : Prop :=
  as.length = cs.length ∧ ∀ (j : Nat) (c : Cand) (a : RepAnn), cs[j]? = some c → as[j]? = some a →
    (∀ i, a.slot = some i ↔ fav[i]? = some c.off ∧ ∀ i', i' < i → fav[i']? ≠ some c.off) ∧
    fav[0]? = some a.inOff ∧ a.repCost = 8 + matchExtBits true c.len ∧ a.delta = offBits true c.off

/-- `FAV` and `GCUR` after position `p` of the greedy walk (R182, R184), from the values on arrival. -/
def greedyMoves (p : Nat) (cs : List Cand) (fav : List Nat) (gcur : Nat) (fav' : List Nat) (gcur' : Nat) : Prop :=
  if p = gcur then
    match cs with
    | c :: _ =>
      fav' = (c.off :: (fav.filter (fun x => decide (x ≠ c.off)) ++ [0, 0, 0, 0])).take 4 ∧ gcur' = p + c.len
    | [] => fav' = fav ∧ gcur' = p + 1
  else fav' = fav ∧ gcur' = gcur

/-- A valid candidate at position `p` of the window `w` (R163). -/
def validCandidate (w : List Byte) (mm p : Nat) (c : Cand) : Prop :=
  1 ≤ c.off ∧ c.off ≤ min p Config.maxOffset ∧ c.len = matchLen (w.drop (p - c.off)) (w.drop p) ∧ mm ≤ c.len

/-- A candidate with a nearer valid one at least as long (R164). -/
def dominated (w : List Byte) (mm p : Nat) (c : Cand) : Prop :=
  ∃ d, validCandidate w mm p d ∧ d.off < c.off ∧ c.len ≤ d.len

end Sys2Proof.Machine
end

