-- ==== Sys2Proof/Certificates/Slice0/Obligations.lean ====
section
/-! DEFINITION. The statements for the provers: what the spec's rules say the machine does, one definition each. -/

open Sys2Proof Sys2Proof.Machine

/-! ## Encodings (30_encoding.md) -/

/-- DECODE AND ENCODE AGREE: every well-formed instruction, with every operand its encoding admits, is what the decoder
reads from its encoding, whatever bytes follow (R90, R98, R101, R104, R106, R111, R116, R118). -/
def Obligations.DecodeOfEncode : Prop :=
  ∀ (i : Instr) (rest : List Byte), i.WellFormed →
    decode i.format (encode i ++ rest) = .instr i (encode i).length

/-- The other direction: what the decoder reads is well formed, of the format asked for, no longer than the bytes given,
and outside the command word (whose bits 31..4 are ignored, R90) and the nibble forms its bytes are its encoding. -/
def Obligations.EncodeOfDecode : Prop :=
  ∀ (f : Format) (bytes : List Byte) (i : Instr) (n : Nat), decode f bytes = .instr i n →
    i.WellFormed ∧ i.format = f ∧ n = (encode i).length ∧ n ≤ bytes.length ∧
      (f ≠ .cmdw → f.isNibble = false → bytes.take n = encode i)

/-- The reserved extension values of R120, in both formats: exactly these bytes are rejected as reserved. -/
def Obligations.ReservedExtensionBytes : Prop :=
  ∀ (b : Byte) (rest : List Byte),
    (decode .v1litx (b :: rest) = .rejected .reservedLiteralExtension ↔ 251 ≤ b.toNat) ∧
    (decode .v1mlx (b :: rest) = .rejected .reservedMatchExtension ↔ 240 ≤ b.toNat) ∧
    (decode .v2litxb (b :: rest) = .rejected .reservedLiteralExtension ↔ b.toNat = 238 ∨ 240 ≤ b.toNat) ∧
    (decode .v2mlxb (b :: rest) = .rejected .reservedMatchExtension ↔ 234 ≤ b.toNat)

/-- A few words written out from the tables of 30_encoding.md decode to the instruction they stand for. -/
def Obligations.WordsOfTheTables : Prop :=
  decode .cmdw [0x03#8, 0x00#8, 0x00#8, 0x00#8] = .instr .shrink 4 ∧
  decode .v1tok [0x25#8] = .instr (.v1Cmd8 2#3 5#4) 1 ∧
  decode .v1litx [0xFA#8, 0x07#8] = .instr (.v1Litx9 7#8) 2 ∧
  decode .v1mlx [0xEE#8, 0x57#8, 0x02#8] = .instr (.v1Mlx16 599#16) 3 ∧
  decode .v2tok [0x36#8] = .instr (.v2Off5 1#1 2#2 6#3) 1 ∧
  decode .v2litxn [0x02#8] = .instr (.v2Litxn 2#4) 1 ∧
  decode .v2mlxb [0xE8#8] = .instr .v2Eod 1

/-! ## A step runs the decoded instruction -/

/-- A STEP RUNS THE DECODED INSTRUCTION, command side (R22, R330 (1)): on a write of `CMD` while the engine is idle, a
step is `exec` of the instruction the word decodes to, with the access taken off the host's list, the word held in
`CMD`, `BUSY` set and `DONE`, `ERR`, `RESULT`, `ERRCODE` cleared. -/
def Obligations.StepRunsTheCommand : Prop :=
  ∀ (s : State) (w : Word) (rest : List HostAct) (i : Instr) (n : Nat),
    s.hostTurnNext (.writeReg 0x00 w) rest → s.busy = false → decode .cmdw (bytesOfWord w) = .instr i n →
    step s = exec i { s with
      host := rest, cmd := w, busy := true, done := false, err := false, result := 0#32, errcode := .ok }

/-- A STEP RUNS THE DECODED INSTRUCTION, stream side (R272, R274): when the engine is to move, the bytes at `IP` decode in
the expected format, and the stream does not end there, a step is `exec` of the instruction with `IP` past its bytes. -/
def Obligations.StepRunsTheStreamInstruction : Prop :=
  ∀ (s : State) (i : Instr) (n : Nat), s.engineTurnNext → s.dec.expect.isNibble = false →
    ¬ (tokenExpected s.dec.expect = true ∧ s.dec.ip = s.dec.dinsz) →
    decode s.dec.expect (s.streamBytes 3) = .instr i n →
    step s = exec i (s.withDec { s.dec with ip := s.dec.ip + n })

/-- A nibble form runs in one step with the nibble of R273: the buffered one, or the high half of the byte at `IP`, whose
low half is then buffered; a nibble of 15 runs nothing and makes the decoder expect the extension's byte (R293, R302). -/
def Obligations.StepRunsTheNibbleForm : Prop :=
  ∀ (s : State) (v p : Nat) (h : Bool) (nv : BitVec 4), s.engineTurnNext → s.dec.expect.isNibble = true →
    wireNibble s s.dec.ip = some (v, p, h, nv) →
    (v ≤ 14 → s.dec.expect = .v2litxn →
      step s = exec (.v2Litxn (BitVec.ofNat 4 v)) (s.withDec { s.dec with ip := p, nibh := h, nibv := nv })) ∧
    (v ≤ 14 → s.dec.expect = .v2mlxn →
      step s = exec (.v2Mlxn (BitVec.ofNat 4 v)) (s.withDec { s.dec with ip := p, nibh := h, nibv := nv })) ∧
    (v = 15 →
      step s = .next (s.withDec { s.dec with
        ip := p, nibh := h, nibv := nv, expect := if s.dec.expect = .v2litxn then .v2litxb else .v2mlxb }))

/-- The stream ends where a token may stand (R275): a framed block ends with success, its result the bytes produced; a
raw block has seen no EOD marker and ends with `FORMAT_ERROR`. That the decoder's registers keep their values after a
success is the model's choice (log 23). -/
def Obligations.StreamEndBetweenCommands : Prop :=
  ∀ s : State, s.engineTurnNext → (s.dec.expect = .v1tok ∨ s.dec.expect = .v2tok) → s.dec.ip = s.dec.dinsz →
    (s.dec.draw = false →
      step s = .next { s with
        result := BitVec.ofNat 32 (s.dec.op - s.dec.doff), errcode := .ok, err := false, busy := false, done := true }) ∧
    (s.dec.draw = true → ∃ t, step s = .next t ∧ FormatErrorFrom s t)

/-- A field that is missing or reserved ends `EXPAND` with `FORMAT_ERROR` (R120, R272, R374 causes 1 to 3): the bytes left
decode to nothing in the expected format, or a nibble is wanted where no nibble and no byte is left. -/
def Obligations.BadFieldEndsWithFormatError : Prop :=
  ∀ s : State, s.engineTurnNext →
    (∀ why, s.dec.expect.isNibble = false → ¬ (tokenExpected s.dec.expect = true ∧ s.dec.ip = s.dec.dinsz) →
      decode s.dec.expect (s.streamBytes 3) = .rejected why → ∃ t, step s = .next t ∧ FormatErrorFrom s t) ∧
    (s.dec.expect.isNibble = true → wireNibble s s.dec.ip = none → ∃ t, step s = .next t ∧ FormatErrorFrom s t)

/-! ## Invariant, reset, termination -/

/-- AN INVARIANT THAT EVERY STEP KEEPS (R22, R23, R24, R26, R27, R30, R31, R60): see `State.Inv`. -/
def Obligations.StepKeepsInvariant : Prop :=
  ∀ s t : State, s.Inv → step s = .next t → t.Inv

/-- The invariant holds at reset. -/
def Obligations.ResetMeetsInvariant : Prop := State.reset.Inv

/-- What reset leaves (R35, R410), the values the spec gives: every register of the window reads 0, the engine is idle
and every field of the context is 0. (The working arrays, decoder and encoder registers and memories are unspecified;
nothing is said of them.) -/
def Obligations.ResetRegistersReadZero : Prop :=
  (∀ off, State.reset.regValue off = 0#32) ∧ State.reset.busy = false ∧ State.reset.ctx.valid = false ∧
    State.reset.ctx.maxwin = 0 ∧ State.reset.ctx.minmatch = 0 ∧ State.reset.ctx.fmt = 0#2 ∧
    State.reset.ctx.favor = false ∧ State.reset.ctx.raw = false ∧ State.reset.ctx.cmdcount = 0#32

/-- The reset event, busy or not (R410, R411), gives the registers and the context their reset values; every byte of
every memory is then a free value of the new reset number (the model's own, log 7). -/
def Obligations.ResetEventClears : Prop :=
  ∀ (s : State) (rest : List HostAct), s.hostTurnNext .reset rest →
    ∃ t, step s = .next t ∧ (∀ off, t.regValue off = 0#32) ∧ t.busy = false ∧ t.ctx = State.reset.ctx ∧
      (∀ sp a, t.readByte sp a = Config.powerUpByte (s.gen + 1) sp.number a) ∧ t.host = rest

/-- An idle engine executes nothing until the host writes `CMD` (R410): with no access to come, a step changes nothing. -/
def Obligations.IdleEngineStays : Prop :=
  ∀ s : State, s.busy = false → s.host = [] → step s = .next s

/-- `EXPAND` always ends (R312): from a running decoder with `n` bytes of input left, `2*n + 2` steps of the engine end
the command, whatever the bytes are. -/
def Obligations.ExpandTerminates : Prop :=
  ∀ s : State, s.Inv → s.busy = true → s.host = [] →
    ∃ t : State, Host.Core.run Sys2Proof.core (2 * (s.dec.dinsz - s.dec.ip) + 2) s = .next t ∧
      t.busy = false ∧ t.done = true

/-! ## Host commands (46_host_commands.md) -/

/-- `INIT` with legal operands completes (R331, R333): the context is written, with the minimum match size raised to its
floor, `RESULT` is 0, and nothing else changes. -/
def Obligations.InitCompletes : Prop :=
  ∀ s : State, (s.arg2 = 1#32 ∨ s.arg2 = 2#32) → s.arg3.toNat < 4 → s.arg1.toNat ≤ 255 → s.arg0.toNat ≤ 131072 →
    exec .init s = .next { s with
      ctx := {
        valid := true, maxwin := s.arg0.toNat, minmatch := max s.arg1.toNat (if s.arg2 = 1#32 then 3 else 2),
        fmt := s.arg2.setWidth 2, favor := s.arg3.getLsbD 0, raw := s.arg3.getLsbD 1, cmdcount := 0#32 },
      result := 0#32, errcode := .ok, err := false, busy := false, done := true }

/-- `INIT` with an illegal operand (R331, R334, R381): `BAD_ARG` comes before `ALLOC`; in both cases the old context is
gone and the token count is 0; nothing else changes but the context's other fields, which mean nothing. -/
def Obligations.InitRejectsOperands : Prop :=
  ∀ s : State,
    (¬ ((s.arg2 = 1#32 ∨ s.arg2 = 2#32) ∧ s.arg3.toNat < 4 ∧ s.arg1.toNat ≤ 255) →
      ∃ c : Ctx, c.valid = false ∧ c.cmdcount = 0#32 ∧ exec .init s = .next { s with
        ctx := c, result := 0xFFFFFFFF#32, errcode := .badArg, err := true, busy := false, done := true }) ∧
    ((s.arg2 = 1#32 ∨ s.arg2 = 2#32) → s.arg3.toNat < 4 → s.arg1.toNat ≤ 255 → 131072 < s.arg0.toNat →
      ∃ c : Ctx, c.valid = false ∧ c.cmdcount = 0#32 ∧ exec .init s = .next { s with
        ctx := c, result := 0xFFFFFFFF#32, errcode := .alloc, err := true, busy := false, done := true })

/-- `DESTROY` completes in every state, with or without a context (R340): the context is gone, the count is 0, `RESULT`
is 0, and nothing else changes but the context's other fields, which mean nothing. After it, `SHRINK` and `GETCOUNT` end
with `BAD_ARG`. -/
def Obligations.DestroyCompletes : Prop :=
  ∀ s : State, ∃ t : State, exec .destroy s = .next t ∧ t.ctx.valid = false ∧ t.ctx.cmdcount = 0#32 ∧
    t = { s with ctx := t.ctx, result := 0#32, errcode := .ok, err := false, busy := false, done := true } ∧
    exec .shrink t = .next { t with result := 0xFFFFFFFF#32, errcode := .badArg, err := true } ∧
    exec .getcount t = .next { t with result := 0xFFFFFFFF#32, errcode := .badArg, err := true }

/-- `GETCOUNT` completes when a context exists (R352): `RESULT` is the token count, which is also what `CMDCOUNT` reads,
and nothing else changes; without a context it ends with `BAD_ARG`. -/
def Obligations.GetcountCompletes : Prop :=
  ∀ s : State,
    (s.ctx.valid = true → exec .getcount s = .next { s with
      result := s.regValue 0x28, errcode := .ok, err := false, busy := false, done := true }) ∧
    (s.ctx.valid = false → exec .getcount s = .next { s with
      result := 0xFFFFFFFF#32, errcode := .badArg, err := true, busy := false, done := true })

/-- `SHRINK` completes (R342, R345, R62, R218): with a context, a window inside it, sizes in range, and a block that fits
and (raw) compresses, `COUT[0, total)` is the block, `RESULT` its size, `CMDCOUNT` the number of Tokens; `COUT` at and
above `out_capacity`, the other memories, the context's configuration and every other register are unchanged. That the working arrays keep what the phases
computed is the model's choice (log 16), as are the free values past the block (log 8). -/
def Obligations.ShrinkCompletes : Prop :=
  ∀ (s : State) (r : Work × List Byte), s.ctx.valid = true → s.arg0.toNat + s.arg1.toNat ≤ s.ctx.maxwin →
    s.arg1.toNat ≤ 65535 → s.arg2.toNat ≤ 131072 →
    r = compress s.ctx s.work (s.readBytes .win 0 (s.arg0.toNat + s.arg1.toNat)) s.arg0.toNat →
    r.2.length ≤ s.arg2.toNat → (s.ctx.raw = true → r.2.length < s.arg1.toNat) →
    ∃ t : State, exec .shrink s = .next t ∧
      t = { s with
        work := r.1, ctx := { s.ctx with cmdcount := BitVec.ofNat 32 r.1.tok.length },
        result := BitVec.ofNat 32 r.2.length, errcode := .ok, err := false, busy := false, done := true,
        cout := t.cout, serial := t.serial } ∧
      (∀ a (h : a < r.2.length), t.readByte .cout a = r.2[a]) ∧
      (∀ a, s.arg2.toNat ≤ a → t.readByte .cout a = s.readByte .cout a)

/-- `SHRINK` ends at its first failing operand check (R342, R343, R381), before any phase: no context, window too large,
raw input too large, framed input too large, capacity too large, in this order. The count is 0 and nothing else but the
result registers changes; `COUT` is unchanged (R345). -/
def Obligations.ShrinkRejectsOperands : Prop :=
  ∀ s : State,
    (s.ctx.valid = false → exec .shrink s = .next { s with
      result := 0xFFFFFFFF#32, errcode := .badArg, err := true, busy := false, done := true }) ∧
    (s.ctx.valid = true → ∀ k : ErrKind,
      (s.ctx.maxwin < s.arg0.toNat + s.arg1.toNat ∧ k = .alloc ∨
       s.arg0.toNat + s.arg1.toNat ≤ s.ctx.maxwin ∧ s.ctx.raw = true ∧ 65535 < s.arg1.toNat ∧ k = .rawInputTooLarge ∨
       s.arg0.toNat + s.arg1.toNat ≤ s.ctx.maxwin ∧ s.ctx.raw = false ∧ 65535 < s.arg1.toNat ∧ k = .badArg ∨
       s.arg0.toNat + s.arg1.toNat ≤ s.ctx.maxwin ∧ s.arg1.toNat ≤ 65535 ∧ 131072 < s.arg2.toNat ∧ k = .badArg) →
      exec .shrink s = .next { s with
        ctx := { s.ctx with cmdcount := 0#32 },
        result := 0xFFFFFFFF#32, errcode := k, err := true, busy := false, done := true })

/-- The two size errors of `SHRINK` (R248, R249, R342): `OUT_TOO_SMALL` is tested first; then, in raw mode,
`RAW_INCOMPRESSIBLE` when the block is not smaller than its input. `COUT` changes below `out_capacity` only, the
context's configuration stays and the count is 0. -/
def Obligations.ShrinkSizeErrors : Prop :=
  ∀ (s : State) (r : Work × List Byte), s.ctx.valid = true → s.arg0.toNat + s.arg1.toNat ≤ s.ctx.maxwin →
    s.arg1.toNat ≤ 65535 → s.arg2.toNat ≤ 131072 →
    r = compress s.ctx s.work (s.readBytes .win 0 (s.arg0.toNat + s.arg1.toNat)) s.arg0.toNat →
    ∀ k : ErrKind,
      (s.arg2.toNat < r.2.length ∧ k = .outTooSmall ∨
       r.2.length ≤ s.arg2.toNat ∧ s.ctx.raw = true ∧ s.arg1.toNat ≤ r.2.length ∧ k = .rawIncompressible) →
      ∃ t : State, exec .shrink s = .next t ∧
        t = { s with
          work := r.1, ctx := { s.ctx with cmdcount := 0#32 },
          result := 0xFFFFFFFF#32, errcode := k, err := true, busy := false, done := true,
          cout := t.cout, serial := t.serial } ∧
        (∀ a, s.arg2.toNat ≤ a → t.readByte .cout a = s.readByte .cout a)

/-- The result of a `SHRINK` never depends on what an earlier command left in the working arrays (R29, R347): two states
with the same context configuration, operands and window bytes get the same result, error kind and context, and after a
success the same Tokens and the same block. -/
def Obligations.ShrinkIgnoresOldArrays : Prop :=
  ∀ s s' t t' : State, s.ctx.valid = true → { s.ctx with cmdcount := 0#32 } = { s'.ctx with cmdcount := 0#32 } →
    s.arg0 = s'.arg0 → s.arg1 = s'.arg1 → s.arg2 = s'.arg2 →
    (∀ a, a < s.arg0.toNat + s.arg1.toNat → s.readByte .win a = s'.readByte .win a) →
    exec .shrink s = .next t → exec .shrink s' = .next t' →
    t.result = t'.result ∧ t.errcode = t'.errcode ∧ t.ctx = t'.ctx ∧
      (t.errcode = .ok → t.work.tok = t'.work.tok ∧
        ∀ a, a < t.result.toNat → t.readByte .cout a = t'.readByte .cout a)

/-- `EXPAND` with legal operands starts the Block Decoder (R354, R271): every decoder register has its initial value, and
nothing else changes (the command goes on with the stream's forms). Setting up as a step of its own, and the
expected format as a register, are the model's choices (logs 2, 3). -/
def Obligations.ExpandStartsDecoder : Prop :=
  ∀ s : State, s.busy = true → s.done = false → (s.arg0 = 1#32 ∨ s.arg0 = 2#32) → s.arg1.toNat < 4 →
    s.arg2.toNat ≤ 131072 → s.arg4.toNat ≤ 131072 → s.arg3.toNat ≤ s.arg4.toNat →
    ∃ d : Dec, exec .expand s = .next { s with dec := d } ∧
      d.ip = 0 ∧ d.op = s.arg3.toNat ∧ d.rep = 0 ∧ d.nibh = false ∧ d.nibv = 0#4 ∧ d.dfmt.toNat = s.arg0.toNat ∧
      d.draw = s.arg1.getLsbD 1 ∧ d.dinsz = s.arg2.toNat ∧ d.doff = s.arg3.toNat ∧ d.dcap = s.arg4.toNat ∧
      d.expect = if s.arg0 = 1#32 then Format.v1tok else Format.v2tok

/-- `EXPAND` with an illegal operand ends with `BAD_ARG` (R354, R375) and changes nothing else, the context and the token
count included (R355). -/
def Obligations.ExpandRejectsOperands : Prop :=
  ∀ s : State,
    ¬ ((s.arg0 = 1#32 ∨ s.arg0 = 2#32) ∧ s.arg1.toNat < 4 ∧ s.arg2.toNat ≤ 131072 ∧ s.arg4.toNat ≤ 131072 ∧
      s.arg3.toNat ≤ s.arg4.toNat) →
    exec .expand s = .next { s with
      result := 0xFFFFFFFF#32, errcode := .badArg, err := true, busy := false, done := true }

/-- A reserved opcode, 0 or 6 to 15 (R93): the command ends at once with `BAD_ARG` and changes no other state. -/
def Obligations.ReservedOpcodeIsBadArg : Prop :=
  ∀ (s : State) (w : Word) (rest : List HostAct), s.hostTurnNext (.writeReg 0x00 w) rest → s.busy = false →
    (w.toNat % 16 = 0 ∨ 6 ≤ w.toNat % 16) →
    step s = .next { s with
      host := rest, cmd := w, result := 0xFFFFFFFF#32, errcode := .badArg, err := true, busy := false, done := true }

/-- How every command ends (R330, R372, R383): a write of `CMD` while the engine is idle gives a state that is done, with
`ERR` exactly for an error kind and then `RESULT` −1, whatever error was latched before; or it starts an `EXPAND`, and the
old error is cleared. -/
def Obligations.CommandWriteEndsOrStarts : Prop :=
  ∀ (s : State) (w : Word) (rest : List HostAct), s.hostTurnNext (.writeReg 0x00 w) rest → s.busy = false →
    ∃ t : State, step s = .next t ∧
      (t.busy = false ∧ t.done = true ∧ (t.err = true ↔ t.errcode ≠ .ok) ∧
          (t.errcode ≠ .ok → t.result = 0xFFFFFFFF#32) ∨
        w.toNat % 16 = 5 ∧ t.busy = true ∧ t.done = false ∧ t.err = false ∧ t.result = 0#32 ∧ t.errcode = .ok)

/-! ## The register window and the memories, from the host (10_state.md, 20_memory.md, 70_reset_and_hazards.md) -/

/-- The bits of `STATUS` (R23). -/
def Obligations.StatusBits : Prop :=
  ∀ s : State, s.statusWord.getLsbD 0 = s.busy ∧ s.statusWord.getLsbD 1 = s.done ∧ s.statusWord.getLsbD 2 = s.err ∧
    s.statusWord.getLsbD 3 = s.ctx.valid ∧ ∀ k, 4 ≤ k → s.statusWord.getLsbD k = false

/-- A host write of `ARGi` (R21): the register then reads the value, every other register of the window reads as before,
and nothing outside the six argument registers changes. -/
def Obligations.HostWritesArgument : Prop :=
  ∀ (s : State) (i : Nat) (v : Word) (rest : List HostAct), i < 6 →
    s.hostTurnNext (.writeReg (0x10 + 4 * i) v) rest → s.busy = false →
    ∃ t : State, step s = .next t ∧ t.regValue (0x10 + 4 * i) = v ∧
      (∀ off, off ≠ 0x10 + 4 * i → t.regValue off = s.regValue off) ∧
      t = { s with
        host := rest, arg0 := t.arg0, arg1 := t.arg1, arg2 := t.arg2, arg3 := t.arg3, arg4 := t.arg4, arg5 := t.arg5 }

/-- THE REGISTER MAP AND HOST READS (R21, R25, R71, R371, R420). The offsets 0x04, 0x08, 0x0C, 0x10 to 0x24 and 0x28 are
`STATUS`, `RESULT`, `ERRCODE` with the codes 0 to 6, `ARG0` to `ARG5` and `CMDCOUNT`; `CMD` and every offset from 0x2C on
read 0. A host read gives the register's value and changes nothing else; while a command runs `RESULT`, `ERRCODE` and
`CMDCOUNT` give a free value, `ERRCODE` still one of the codes. A write of a reserved offset is ignored, busy or not. -/
def Obligations.HostReadsRegisters : Prop :=
  ∀ (s : State) (off : Nat) (v : Word) (rest : List HostAct), off % 4 = 0 →
    (s.regValue 0x04 = s.statusWord ∧ s.regValue 0x08 = s.result ∧ s.regValue 0x10 = s.arg0 ∧ s.regValue 0x14 = s.arg1 ∧
      s.regValue 0x18 = s.arg2 ∧ s.regValue 0x1C = s.arg3 ∧ s.regValue 0x20 = s.arg4 ∧ s.regValue 0x24 = s.arg5 ∧
      s.regValue 0x28 = s.ctx.cmdcount) ∧
    ((s.errcode = .ok → s.regValue 0x0C = 0#32) ∧ (s.errcode = .alloc → s.regValue 0x0C = 1#32) ∧
      (s.errcode = .outTooSmall → s.regValue 0x0C = 2#32) ∧ (s.errcode = .rawInputTooLarge → s.regValue 0x0C = 3#32) ∧
      (s.errcode = .rawIncompressible → s.regValue 0x0C = 4#32) ∧ (s.errcode = .formatError → s.regValue 0x0C = 5#32) ∧
      (s.errcode = .badArg → s.regValue 0x0C = 6#32)) ∧
    (off = 0 ∨ 0x2C ≤ off → s.regValue off = 0#32) ∧
    (s.busy = false ∨ off ≠ 0x08 ∧ off ≠ 0x0C ∧ off ≠ 0x28 → s.hostTurnNext (.readReg off) rest →
      step s = .next { s with host := rest, bus := s.regValue off }) ∧
    (s.busy = true → off = 0x08 ∨ off = 0x0C ∨ off = 0x28 → s.hostTurnNext (.readReg off) rest →
      ∃ t : State, step s = .next t ∧ t = { s with host := rest, bus := t.bus, serial := t.serial } ∧
        (off = 0x0C → t.bus.toNat ≤ 6)) ∧
    (0x2C ≤ off → s.hostTurnNext (.writeReg off v) rest → step s = .next { s with host := rest })

/-- The `BUSY` hazard (R72, R420, U1, U2): a write of a register (an offset below 0x2C) or an access to a buffer memory
while a command runs is refused; a register access that is no aligned word is refused always (R66, U6). -/
def Obligations.BusyHostStepsRefused : Prop :=
  ∀ (s : State) (rest : List HostAct),
    (∀ off v, s.busy = true → off % 4 = 0 → off < 0x2C → s.hostTurnNext (.writeReg off v) rest →
      step s = .refused .hostBusy) ∧
    (∀ sp a, s.busy = true → s.hostTurnNext (.readMem sp a) rest → step s = .refused .hostBusy) ∧
    (∀ sp a b, s.busy = true → s.hostTurnNext (.writeMem sp a b) rest → step s = .refused .hostBusy) ∧
    (∀ off, off % 4 ≠ 0 → s.hostTurnNext (.readReg off) rest → step s = .refused (.registerAccess off)) ∧
    (∀ off v, off % 4 ≠ 0 → s.hostTurnNext (.writeReg off v) rest → step s = .refused (.registerAccess off))

/-- Buffer memories hold the last byte written (R71), the four of them never alias (R60), and an address at or above a
memory's size does not exist, for a write as for a read (a fault, log 11): a host byte write followed by a host byte read,
while the engine is idle. -/
def Obligations.HostByteWriteReadsBack : Prop :=
  ∀ (s : State) (sp sp' : Space) (a x : Nat) (b : Byte), s.busy = false →
    s.host = [.writeMem sp a b, .readMem sp' x] →
    (a < 131072 → x < 131072 → ∃ t : State, Host.Core.run Sys2Proof.core 2 s = .next t ∧
      t.bus = (if sp' = sp ∧ x = a then b else s.readByte sp' x).setWidth 32 ∧
      (∀ sp'' y, t.readByte sp'' y = if sp'' = sp ∧ y = a then b else s.readByte sp'' y)) ∧
    (a < 131072 → 131072 ≤ x → Host.Core.run Sys2Proof.core 2 s = .fault (.noSuchAddress sp' x)) ∧
    (131072 ≤ a → step s = .fault (.noSuchAddress sp a))

/-! ## The Block Decoder (45_block_decoder.md) -/

/-- A token whose literal field is full waits for its extension (R101, R111, R278, R290): `V1.CMD8`, `V1.CMD16`,
`V2.OFF5`, `V2.OFF9`, `V2.OFF13`, `V2.OFF16`, `V2.REP`. Its offset form and match field are held; nothing else changes. -/
def Obligations.TokenWaitsForLiteralExtension : Prop :=
  ∀ (i : Instr) (s : State) (f : OffForm) (m : Nat) (x : Format), literalWaits i = some (f, m, x) →
    exec i s = .next (s.withDec { s.dec with tokForm := f, tokM := m, expect := x })

/-- A literal run that ends a framed block (R275, R280, R310): for every instruction that settles a literal count, the
seven tokens and `V1.LITX8`, `V1.LITX9`, `V1.LITX16`, `V2.LITXN`, `V2.LITX8`, `V2.LITX16`. The literals are copied, the
result is the number of bytes produced, and the token's match fields are not looked at. The decoder's registers
after the end, the held token fields among them, are the model's choice (logs 3, 23). -/
def Obligations.LiteralRunEndsFramedBlock : Prop :=
  ∀ (i : Instr) (s : State) (k : LiteralKnown), literalKnown s.dec i = some k → s.dec.draw = false →
    s.dec.ip + k.nlit = s.dec.dinsz → s.dec.op + k.nlit ≤ s.dec.dcap →
    exec i s = .next { s.literalsCopied k.nlit with
      dec := { s.dec with
        ip := s.dec.ip + k.nlit, op := s.dec.op + k.nlit, tokForm := k.form, tokM := k.field },
      result := BitVec.ofNat 32 (s.dec.op + k.nlit - s.dec.doff), errcode := .ok, err := false, busy := false,
      done := true }

/-- A whole command with an inline match length (R278 to R286, R290 to R300, R307 to R309): for the seven tokens and the
six literal extensions. The literals are copied, the offset field is the one of the token's form by the formulas of R284,
R285, R295 to R299, the match is copied forward, `REP` is its offset, and the next token is expected. -/
def Obligations.CommandWithInlineMatchCompletes : Prop :=
  ∀ (i : Instr) (s : State) (k : LiteralKnown) (o : WireOffset) (len : Nat), literalKnown s.dec i = some k →
    s.dec.ip + k.nlit < s.dec.dinsz → s.dec.op + k.nlit ≤ s.dec.dcap →
    wireOffset s (s.dec.ip + k.nlit) k.form = some o → inlineMatchLength k.form k.field = some len →
    1 ≤ o.off → o.off ≤ s.dec.op + k.nlit → s.dec.op + k.nlit + len ≤ s.dec.dcap →
    exec i s = .next (((s.literalsCopied k.nlit).copyForward o.off (s.dec.op + k.nlit) len).withDec
      { s.dec with
        ip := o.ip, nibh := o.nibh, nibv := o.nibv, op := s.dec.op + k.nlit + len, rep := o.off, moff := o.off,
        tokForm := k.form, tokM := k.field, expect := if s.dec.dfmt = 2#2 then .v2tok else .v1tok })

/-- A command whose match field is full waits for its length after the offset field (R96, R276): for the seven tokens and
the six literal extensions. The offset is held unchecked. -/
def Obligations.CommandWaitsForMatchExtension : Prop :=
  ∀ (i : Instr) (s : State) (k : LiteralKnown) (o : WireOffset), literalKnown s.dec i = some k →
    s.dec.ip + k.nlit < s.dec.dinsz → s.dec.op + k.nlit ≤ s.dec.dcap →
    wireOffset s (s.dec.ip + k.nlit) k.form = some o → inlineMatchLength k.form k.field = none →
    exec i s = .next ((s.literalsCopied k.nlit).withDec
      { s.dec with
        ip := o.ip, nibh := o.nibh, nibv := o.nibv, op := s.dec.op + k.nlit, moff := o.off,
        tokForm := k.form, tokM := k.field, expect := matchExtensionFormat k.form })

/-- A match extension completes the command (R287 to R289, R301 to R303, R307 to R309): `V1.MLX8`, `V1.MLX9`, `V1.MLX16`,
`V2.MLXN`, `V2.MLX8`, `V2.MLX16`, with a length above 0. -/
def Obligations.MatchExtensionCompletes : Prop :=
  ∀ (i : Instr) (s : State) (len : Nat), extendedMatchLength i = some len → 1 ≤ len →
    1 ≤ s.dec.moff → s.dec.moff ≤ s.dec.op → s.dec.op + len ≤ s.dec.dcap →
    exec i s = .next ((s.copyForward s.dec.moff s.dec.op len).withDec
      { s.dec with
        op := s.dec.op + len, rep := s.dec.moff, expect := if s.dec.dfmt = 2#2 then .v2tok else .v1tok })

/-- The EOD marker, `V1.EOD` and `V2.EOD` (R306): in a raw block with no byte left it ends `EXPAND` with success, with the
decoder's registers (`REP` among them) as they were, and the offset is neither checked nor used; in a framed block, or
with bytes left, it is a `FORMAT_ERROR`. R306 says that `REP` stays; that the decoder's other registers stay
after the end is the model's choice (log 23). -/
def Obligations.EndOfDataMarker : Prop :=
  ∀ (i : Instr) (s : State), (i = .v1Eod ∨ i = .v2Eod) →
    (s.dec.draw = true → s.dec.ip = s.dec.dinsz → exec i s = .next { s with
      result := BitVec.ofNat 32 (s.dec.op - s.dec.doff), errcode := .ok, err := false, busy := false, done := true }) ∧
    ((s.dec.draw = false ∨ s.dec.ip ≠ s.dec.dinsz) → ∃ t, exec i s = .next t ∧ FormatErrorFrom s t)

/-- The literal checks and the truncated offset (R280, R272, R275): a run past the input or past the output capacity, an
offset field that is missing, or a raw block that ends after its literals, ends `EXPAND` with `FORMAT_ERROR`. -/
def Obligations.LiteralPartErrors : Prop :=
  ∀ (i : Instr) (s : State) (k : LiteralKnown), literalKnown s.dec i = some k → s.dec.doff ≤ s.dec.op →
    (s.dec.dinsz < s.dec.ip + k.nlit ∨ s.dec.dcap < s.dec.op + k.nlit ∨
      s.dec.ip + k.nlit = s.dec.dinsz ∧ s.dec.draw = true ∨
      s.dec.ip + k.nlit < s.dec.dinsz ∧ wireOffset s (s.dec.ip + k.nlit) k.form = none) →
    ∃ t, exec i s = .next t ∧ FormatErrorFrom s t

/-- The match checks (R307; R303 for the length 0): offset 0, offset beyond the start of `DOUT`, or a match past the output
capacity, ends `EXPAND` with `FORMAT_ERROR`, for the inline lengths and for the match extensions. -/
def Obligations.MatchPartErrors : Prop :=
  ∀ (i : Instr) (s : State), s.dec.doff ≤ s.dec.op →
    (∀ len, extendedMatchLength i = some len →
      (s.dec.moff < 1 ∨ s.dec.op < s.dec.moff ∨ s.dec.dcap < s.dec.op + len ∨ i = .v2Mlx16 0#16) →
      ∃ t, exec i s = .next t ∧ FormatErrorFrom s t) ∧
    (∀ (k : LiteralKnown) (o : WireOffset) (len : Nat), literalKnown s.dec i = some k →
      s.dec.ip + k.nlit < s.dec.dinsz → s.dec.op + k.nlit ≤ s.dec.dcap →
      wireOffset s (s.dec.ip + k.nlit) k.form = some o → inlineMatchLength k.form k.field = some len →
      (o.off < 1 ∨ s.dec.op + k.nlit < o.off ∨ s.dec.dcap < s.dec.op + k.nlit + len) →
      ∃ t, exec i s = .next t ∧ FormatErrorFrom s t)

/-- BOUNDEDNESS and the frame of all 21 token and extension forms (R63, R64, R311, R355): whatever the bytes are, only
`DOUT[out_offset, out_capacity)` can change in the memories; `WIN`, `COUT`, `DIN`, the argument registers, the context, the
working arrays and the host's side are unchanged. -/
def Obligations.StreamFormsStayInBounds : Prop :=
  ∀ (i : Instr) (s t : State), isStreamForm i = true → s.dec.doff ≤ s.dec.op → exec i s = .next t →
    (∀ a, (a < s.dec.doff ∨ s.dec.dcap ≤ a) → t.readByte .dout a = s.readByte .dout a) ∧
    t = { s with
      busy := t.busy, done := t.done, err := t.err, result := t.result, errcode := t.errcode,
      dec := t.dec, dout := t.dout, serial := t.serial }

/-- The overlapping forward copy (R70, R308): byte `OP + i` becomes byte `OP - off + (i mod off)` of the state before, and
no byte outside the run changes. -/
def Obligations.MatchCopyRepeatsThePattern : Prop :=
  ∀ (s : State) (off op n : Nat), 1 ≤ off → off ≤ op →
    (∀ i, i < n → (s.copyForward off op n).readByte .dout (op + i) = s.readByte .dout (op - off + i % off)) ∧
    (∀ a, (a < op ∨ op + n ≤ a) → (s.copyForward off op n).readByte .dout a = s.readByte .dout a) ∧
    (∀ sp a, sp ≠ .dout → (s.copyForward off op n).readByte sp a = s.readByte sp a)

/-! ## The compressor (40_suffix_index.md to 44_token_encoder.md) -/

/-- The suffix array (R141): a permutation of the positions, whose suffixes rise strictly in the lexicographic order of
unsigned bytes, a proper prefix first, and the only one such; and `LCP` (R142): 0, then the capped common prefix of
neighbours. -/
def Obligations.SuffixArrayIsSorted : Prop :=
  ∀ (k : Work) (w : List Byte),
    ((k.buildIndex w).sa).Perm (List.range w.length) ∧
    ((k.buildIndex w).sa).Pairwise
      (fun i j => List.Lex (fun a b : Byte => a.toNat < b.toNat) (w.drop i) (w.drop j)) ∧
    (∀ l : List Nat, l.Perm (List.range w.length) →
      l.Pairwise (fun i j => List.Lex (fun a b : Byte => a.toNat < b.toNat) (w.drop i) (w.drop j)) →
      l = (k.buildIndex w).sa) ∧
    (k.buildIndex w).lcp.length = w.length ∧
    (0 < w.length → (k.buildIndex w).lcp[0]? = some 0) ∧
    (∀ r i j, (k.buildIndex w).sa[r]? = some i → (k.buildIndex w).sa[r + 1]? = some j →
      ∃ c, (k.buildIndex w).lcp[r + 1]? = some (min c 32767) ∧ i + c ≤ w.length ∧ j + c ≤ w.length ∧
        (∀ x, x < c → w[i + x]? = w[j + x]?) ∧ (i + c < w.length → j + c < w.length → w[i + c]? ≠ w[j + c]?))

/-- The Suffix Intervals (R143): `IVL` holds every interval of the window's `LCP` array, and nothing else, each once; and
the suffixes ranked in an interval share a prefix of its `lcp` bytes. -/
def Obligations.IntervalsAreComplete : Prop :=
  ∀ (k : Work) (w : List Byte), w ≠ [] →
    (k.buildIndex w).ivl.Nodup ∧
    (∀ v : Interval, v ∈ (k.buildIndex w).ivl ↔ isSuffixInterval (k.buildIndex w).lcp v) ∧
    ∀ v ∈ (k.buildIndex w).ivl, ∀ r r' i j, v.lb ≤ r → r ≤ v.rb → v.lb ≤ r' → r' ≤ v.rb →
      (k.buildIndex w).sa[r]? = some i → (k.buildIndex w).sa[r']? = some j → ∀ x, x < v.lcp → w[i + x]? = w[j + x]?

/-- The packed interval word (R145): the length class in bits 31..17 and the position in bits 16..0, both recoverable. -/
def Obligations.PackedIntervalWord : Prop :=
  ∀ l p : Nat, l ≤ 32767 → p < 131072 → (packWord l p).toNat = l * 131072 + p

/-- The candidates of a block position (R163, R164, R165): the valid pairs that no nearer pair at least as long dominates,
longest first, with offsets falling with the lengths, at most 8 of them, and `NC` their number. -/
def Obligations.CandidatesAreTheFrontier : Prop :=
  ∀ (x : Work) (mm s : Nat) (w : List Byte), 1 ≤ mm → (x.findMatches mm s w).cand.length = w.length - s ∧
    ∀ (k : Nat) (cs : List Cand), (x.findMatches mm s w).cand[k]? = some cs →
      ∃ l : List Cand, (∀ c, c ∈ l ↔ validCandidate w mm (s + k) c ∧ ¬ dominated w mm (s + k) c) ∧
        l.Pairwise (fun c d => d.len < c.len ∧ d.off < c.off) ∧ cs = l.take 8 ∧
        (x.findMatches mm s w).nc[k]? = some (min 8 l.length)

/-- The invariants of every candidate (R168): its length and offset bounds, that it matches byte for byte, that it is
maximal at its offset, and that lengths and offsets fall along the list. -/
def Obligations.CandidatesMatchTheWindow : Prop :=
  ∀ (mm s : Nat) (w : List Byte) (k : Nat) (cs : List Cand), (findMatches mm s w)[k]? = some cs →
    cs.length ≤ 8 ∧ cs.Pairwise (fun c d => d.len < c.len ∧ d.off < c.off) ∧
    ∀ c ∈ cs, mm ≤ c.len ∧ 1 ≤ c.len ∧ s + k + c.len ≤ w.length ∧ c.len ≤ 32767 ∧ 1 ≤ c.off ∧ c.off ≤ s + k ∧
      c.off ≤ 65535 ∧ (∀ i, i < c.len → w[s + k - c.off + i]? = w[s + k + i]?) ∧
      (c.len = 32767 ∨ s + k + c.len = w.length ∨ w[s + k - c.off + c.len]? ≠ w[s + k + c.len]?)

/-- The favored-offset table and the annotations (R181 to R184). Favoring an offset moves the entries before its old place
(or, when it was absent, all entries, the last one falling out) one slot down and puts it in slot 0; after any pass the
table has four entries, no two non-empty ones equal. In a V2 `SHRINK` there are values of `FAV` and `GCUR` on arrival at
each position, four zeros and the block's start at first, that move by the greedy walk (which favors the first candidate's
offset at the positions that are `GCUR`), and `RO` annotates every candidate from the `FAV` on arrival at its position. -/
def Obligations.FavoredTableIsDistinct : Prop :=
  (∀ (o : Nat) (f : List Nat), f.length = 4 → o ≠ 0 → (f.filter (fun x => decide (x ≠ 0))).Nodup →
    (∀ k, slotOf o f = some k → favor o f = o :: (f.take k ++ f.drop (k + 1))) ∧
    (slotOf o f = none → favor o f = o :: f.take 3)) ∧
  (∀ (p g : Nat) (cands : List (List Cand)),
    (repPassFrom p [0, 0, 0, 0] g cands).fav.length = 4 ∧
    ((repPassFrom p [0, 0, 0, 0] g cands).fav.filter (fun o => decide (o ≠ 0))).Nodup ∧
    (repPassFrom p [0, 0, 0, 0] g cands).ro.map List.length = cands.map List.length) ∧
  (∀ (c : Ctx) (k : Work) (w : List Byte) (hist : Nat) (r : Work), c.fmt = 2#2 → r = (compress c k w hist).1 →
    ∃ (fav : Nat → List Nat) (gcur : Nat → Nat),
      fav 0 = [0, 0, 0, 0] ∧ gcur 0 = hist ∧ r.fav = fav r.cand.length ∧ r.gcur = gcur r.cand.length ∧
      r.ro.length = r.cand.length ∧
      ∀ (i : Nat) (cs : List Cand) (as : List RepAnn), r.cand[i]? = some cs → r.ro[i]? = some as →
        annotated (fav i) cs as ∧ greedyMoves (hist + i) cs (fav i) (gcur i) (fav (i + 1)) (gcur (i + 1)))

/-- The parse is never worse than the greedy longest-match-first parse on the same candidates, with either value of the
favor-ratio flag (R220, C3). -/
def Obligations.ParseNoWorseThanGreedy : Prop :=
  ∀ (v2 fav : Bool) (cands : List (List (Cand × Option Nat))),
    ∃ total : Nat, costTotal (parseCosts v2 fav cands) = some total ∧ total ≤ greedyCost v2 none 0 cands

/-- With the favor-ratio flag set the parse has the least model cost of all parses that use literals and full-length
candidates (R220, last sentence). -/
def Obligations.ParseIsOptimalWithFavor : Prop :=
  ∀ (v2 : Bool) (cands : List (List (Cand × Option Nat))),
    ∃ total : Nat, costTotal (parseCosts v2 true cands) = some total ∧
      (∀ (ch : List (Option Nat)) (c : Nat), choiceCost v2 none 0 cands ch = some c → total ≤ c) ∧
      ∃ ch : List (Option Nat), choiceCost v2 none 0 cands ch = some total

/-- The arrays of the dynamic program (R205 to R209), in every `SHRINK`, with either value of the favor-ratio flag. At a
position that is left alone `COSTL` is `inf` and candidate 0 is taken. At every other position `COSTL` is 8 and the
transition to the next position, `COSTM` is the least cost of a candidate, and `BESTJ` is the first candidate that has it;
without candidates they are `inf` and none. -/
def Obligations.CostArraysFollowTheRules : Prop :=
  ∀ (c : Ctx) (k : Work) (w : List Byte) (hist : Nat) (r : Work) (v2 : Bool), r = (compress c k w hist).1 →
    (v2 = true ↔ c.fmt = 2#2) →
    r.costL.length = r.cand.length ∧ r.costM.length = r.cand.length ∧ r.bestJ.length = r.cand.length ∧
    ∀ (p : Nat) (cs : List Cand), r.cand[p]? = some cs →
      ∃ a : PosCost, r.costsAt p = some a ∧
        (leftAlone c.favor cs → a.l = none ∧ a.j = some 0 ∧
          ∃ m x, cs[0]? = some m ∧ r.isNext .matched (p + m.len) x ∧ a.m = some (r.headerAt v2 p 0 m + x)) ∧
        (¬ leftAlone c.favor cs →
          (∃ x, r.isNext .literal (p + 1) x ∧ a.l = some (8 + x)) ∧
          (cs = [] → a.m = none ∧ a.j = none) ∧
          (cs ≠ [] → ∃ b m x, a.j = some b ∧ cs[b]? = some m ∧ r.isNext .matched (p + m.len) x ∧
            a.m = some (r.headerAt v2 p b m + x) ∧
            ∀ j m' y, cs[j]? = some m' → r.isNext .matched (p + m'.len) y →
              r.headerAt v2 p b m + x ≤ r.headerAt v2 p j m' + y ∧
              (j < b → r.headerAt v2 p b m + x < r.headerAt v2 p j m' + y)))

/-- THE WALK (R210, R211, R216), in every `SHRINK`, with either value of the favor-ratio flag: the Tokens stand for the
steps of the walk over the arrays, with R211's choice at each position, a literal at exact equality; the steps end at the
end of the block, and their model cost is `COST_TOTAL`, the least of the two costs at the block's start. No literal Token
is empty or next to another. -/
def Obligations.WalkHasTheTotalCost : Prop :=
  ∀ (c : Ctx) (k : Work) (w : List Byte) (hist : Nat) (r : Work) (v2 : Bool), r = (compress c k w hist).1 →
    (v2 = true ↔ c.fmt = 2#2) →
    (∃ total : Nat, r.walks v2 hist none 0 (tokenSteps hist r.tok) total ∧
      (r.cand = [] ∧ total = 0 ∨ ∃ a, r.costsAt 0 = some a ∧ leastOf total a.l 0 a.m 0)) ∧
    (∀ a n, Token.lit a n ∈ r.tok → 1 ≤ n) ∧
    (∀ pre a n b m post, r.tok ≠ pre ++ Token.lit a n :: Token.lit b m :: post)

/-- The cost model of a header (R185, R202, R203, R204): the bits of the offset field and of the match-length extension for
every offset and length, the header cost of each format and slot, and its bounds, 8 and 52. -/
def Obligations.HeaderCostBounds : Prop :=
  (∀ off : Nat,
    (off ≤ 256 → offBits false off = 8) ∧ (257 ≤ off → offBits false off = 16) ∧
    (off ≤ 32 → offBits true off = 4) ∧ (33 ≤ off → off ≤ 512 → offBits true off = 8) ∧
    (513 ≤ off → off ≤ 8704 → offBits true off = 12) ∧ (8705 ≤ off → offBits true off = 16)) ∧
  (∀ len : Nat,
    (len ≤ 17 → matchExtBits false len = 0) ∧ (18 ≤ len → len ≤ 255 → matchExtBits false len = 8) ∧
    (256 ≤ len → len ≤ 511 → matchExtBits false len = 16) ∧ (512 ≤ len → matchExtBits false len = 24) ∧
    (len ≤ 8 → matchExtBits true len = 0) ∧ (9 ≤ len → len ≤ 23 → matchExtBits true len = 4) ∧
    (24 ≤ len → len ≤ 255 → matchExtBits true len = 12) ∧ (256 ≤ len → matchExtBits true len = 28)) ∧
  (∀ (v2 : Bool) (c : Cand) (slot : Option Nat) (k : Nat),
    headerCost false c slot = 8 + offBits false c.off + matchExtBits false c.len ∧
    headerCost true c none = 8 + offBits true c.off + matchExtBits true c.len ∧
    headerCost true c (some 0) = 8 + matchExtBits true c.len ∧
    headerCost true c (some (k + 1)) + 1 = 8 + offBits true c.off + matchExtBits true c.len ∧
    8 ≤ headerCost v2 c slot ∧ headerCost v2 c slot ≤ 52)

/-- VALIDITY (R219): for every window, context and old working arrays, replaying the Tokens of a `SHRINK` on the history
gives the whole window back. -/
def Obligations.TokensReconstructTheBlock : Prop :=
  ∀ (c : Ctx) (k : Work) (w : List Byte) (hist : Nat), hist ≤ w.length →
    replay w (w.take hist) (compress c k w hist).1.tok = w

/-- The repeat flags (R217, R187): in V1 no Token carries one; in V2 a match carries it exactly when its offset is that of
the match before it, and the first match never does. -/
def Obligations.RepeatFlagsFollowTheOffsets : Prop :=
  ∀ (c : Ctx) (k : Work) (w : List Byte) (hist : Nat) (a b : List Token) (off len : Nat) (rep : Bool),
    (compress c k w hist).1.tok = a ++ .mtch off len rep :: b →
    (c.fmt ≠ 2#2 → rep = false) ∧ (c.fmt = 2#2 → (rep = true ↔ lastOffset 0 a = off)) ∧ 1 ≤ off

/-- Format version 1 (R187): the phases of a V1 `SHRINK` neither write the optimizer's state (`RO`, `FAV`, `GCUR`) nor
read it, and no Token carries the repeat flag. -/
def Obligations.NoRepeatOptimizerInV1 : Prop :=
  ∀ (c : Ctx) (k : Work) (w : List Byte) (hist : Nat), c.fmt = 1#2 →
    (compress c k w hist).1.ro = k.ro ∧ (compress c k w hist).1.fav = k.fav ∧ (compress c k w hist).1.gcur = k.gcur ∧
    (∀ (ro : List (List RepAnn)) (fav : List Nat) (gcur : Nat),
      (compress c { k with ro := ro, fav := fav, gcur := gcur } w hist).1.tok = (compress c k w hist).1.tok ∧
      (compress c { k with ro := ro, fav := fav, gcur := gcur } w hist).2 = (compress c k w hist).2) ∧
    ∀ off len, Token.mtch off len true ∉ (compress c k w hist).1.tok

/-- A capacity that always suffices (R250): the block of a legal context is at most twice its input and 8 bytes more, so
that `SHRINK` cannot end with `OUT_TOO_SMALL` on such a capacity. -/
def Obligations.TwiceTheInputSuffices : Prop :=
  (∀ (c : Ctx) (k : Work) (w : List Byte) (hist : Nat), (c.fmt = 1#2 ∨ c.fmt = 2#2) → minMatchFloor c.fmt ≤ c.minmatch →
    hist ≤ w.length → (compress c k w hist).2.length ≤ 2 * (w.length - hist) + 8) ∧
  (∀ s t : State, s.Inv → exec .shrink s = .next t → 2 * s.arg1.toNat + 8 ≤ s.arg2.toNat → t.errcode ≠ .outTooSmall)

/-- ONE COMMAND ROUND TRIP, V1 (R237 to R240 against R278 to R289): when the decoder stands at the bytes the Token Encoder
writes for a command with a match, at most three steps decode it: the literals are the window's, the match is copied
from the encoded offset for the encoded length, and the next token is expected right after the command. -/
def Obligations.V1CommandDecodesBack : Prop :=
  ∀ (s : State) (raw : Bool) (w : List Byte) (c : Command) (m : MatchPart), c.match? = some m →
    1 ≤ m.off → m.off ≤ 65535 → 3 ≤ m.len → m.len ≤ 32767 → c.nl ≤ 65535 → c.ls + c.nl ≤ w.length →
    s.busy = true → s.host = [] → s.dec.expect = .v1tok → s.dec.dfmt = 1#2 →
    s.readBytes .din s.dec.ip (v1Command raw w c).length = v1Command raw w c →
    s.dec.ip + (v1Command raw w c).length ≤ s.dec.dinsz → s.dec.op + c.nl + m.len ≤ s.dec.dcap →
    m.off ≤ s.dec.op + c.nl →
    ∃ (n : Nat) (t : State), n ≤ 3 ∧ Host.Core.run Sys2Proof.core n s = .next t ∧
      t.busy = true ∧ t.dec.expect = .v1tok ∧ t.dec.ip = s.dec.ip + (v1Command raw w c).length ∧
      t.dec.op = s.dec.op + c.nl + m.len ∧ t.dec.rep = m.off ∧
      (∀ j, j < c.nl → some (t.readByte .dout (s.dec.op + j)) = w[c.ls + j]?) ∧
      (∀ j, j < m.len →
        t.readByte .dout (s.dec.op + c.nl + j) = t.readByte .dout (s.dec.op + c.nl + j - m.off)) ∧
      (∀ a, (a < s.dec.op ∨ s.dec.op + c.nl + m.len ≤ a) → t.readByte .dout a = s.readByte .dout a)

/-- ROUND TRIP, V1 (R251): for every window, history and setting of a V1 context, framed or raw, the block that the phases
of `SHRINK` write, given to `EXPAND` with the same history, ends with success; the result is the block's input size and
`DOUT` holds the whole window. -/
def Obligations.RoundTripV1 : Prop :=
  ∀ (c : Ctx) (k : Work) (w : List Byte) (hist cap : Nat) (x : State), c.fmt = 1#2 → 3 ≤ c.minmatch → hist ≤ w.length →
    w.length ≤ 131072 → w.length - hist ≤ 65535 → w.length ≤ cap →
    StartsExpand x 1#2 c.raw (compress c k w hist).2 (w.take hist) cap →
    ∃ (n : Nat) (t : State), n ≤ 2 * (compress c k w hist).2.length + 2 ∧ Host.Core.run Sys2Proof.core n x = .next t ∧
      t.busy = false ∧ t.done = true ∧ t.errcode = .ok ∧ t.result = BitVec.ofNat 32 (w.length - hist) ∧
      t.readBytes .dout 0 w.length = w

/-- ROUND TRIP, V2 (R251): the same for a V2 context, with the nibble pairs and the repeat offset. -/
def Obligations.RoundTripV2 : Prop :=
  ∀ (c : Ctx) (k : Work) (w : List Byte) (hist cap : Nat) (x : State), c.fmt = 2#2 → 2 ≤ c.minmatch → hist ≤ w.length →
    w.length ≤ 131072 → w.length - hist ≤ 65535 → w.length ≤ cap →
    StartsExpand x 2#2 c.raw (compress c k w hist).2 (w.take hist) cap →
    ∃ (n : Nat) (t : State), n ≤ 2 * (compress c k w hist).2.length + 2 ∧ Host.Core.run Sys2Proof.core n x = .next t ∧
      t.busy = false ∧ t.done = true ∧ t.errcode = .ok ∧ t.result = BitVec.ofNat 32 (w.length - hist) ∧
      t.readBytes .dout 0 w.length = w
end

