-- ==== Sys2Proof/Laws/State.lean ====
section
/-! SUPPORT. One lemma per field per update of State: what each update leaves and what it sets, so that no later proof
unfolds a record update. -/

namespace Sys2Proof.Machine

/-! ### `withDec` -/

@[simp] theorem State.withDec_cmd (s : State) (d : Dec) : (s.withDec d).cmd = s.cmd := rfl
@[simp] theorem State.withDec_busy (s : State) (d : Dec) : (s.withDec d).busy = s.busy := rfl
@[simp] theorem State.withDec_done (s : State) (d : Dec) : (s.withDec d).done = s.done := rfl
@[simp] theorem State.withDec_err (s : State) (d : Dec) : (s.withDec d).err = s.err := rfl
@[simp] theorem State.withDec_result (s : State) (d : Dec) : (s.withDec d).result = s.result := rfl
@[simp] theorem State.withDec_errcode (s : State) (d : Dec) : (s.withDec d).errcode = s.errcode := rfl
@[simp] theorem State.withDec_arg0 (s : State) (d : Dec) : (s.withDec d).arg0 = s.arg0 := rfl
@[simp] theorem State.withDec_arg1 (s : State) (d : Dec) : (s.withDec d).arg1 = s.arg1 := rfl
@[simp] theorem State.withDec_arg2 (s : State) (d : Dec) : (s.withDec d).arg2 = s.arg2 := rfl
@[simp] theorem State.withDec_arg3 (s : State) (d : Dec) : (s.withDec d).arg3 = s.arg3 := rfl
@[simp] theorem State.withDec_arg4 (s : State) (d : Dec) : (s.withDec d).arg4 = s.arg4 := rfl
@[simp] theorem State.withDec_arg5 (s : State) (d : Dec) : (s.withDec d).arg5 = s.arg5 := rfl
@[simp] theorem State.withDec_ctx (s : State) (d : Dec) : (s.withDec d).ctx = s.ctx := rfl
@[simp] theorem State.withDec_work (s : State) (d : Dec) : (s.withDec d).work = s.work := rfl
@[simp] theorem State.withDec_dec (s : State) (d : Dec) : (s.withDec d).dec = d := rfl
@[simp] theorem State.withDec_win (s : State) (d : Dec) : (s.withDec d).win = s.win := rfl
@[simp] theorem State.withDec_cout (s : State) (d : Dec) : (s.withDec d).cout = s.cout := rfl
@[simp] theorem State.withDec_din (s : State) (d : Dec) : (s.withDec d).din = s.din := rfl
@[simp] theorem State.withDec_dout (s : State) (d : Dec) : (s.withDec d).dout = s.dout := rfl
@[simp] theorem State.withDec_host (s : State) (d : Dec) : (s.withDec d).host = s.host := rfl
@[simp] theorem State.withDec_bus (s : State) (d : Dec) : (s.withDec d).bus = s.bus := rfl
@[simp] theorem State.withDec_serial (s : State) (d : Dec) : (s.withDec d).serial = s.serial := rfl
@[simp] theorem State.withDec_gen (s : State) (d : Dec) : (s.withDec d).gen = s.gen := rfl

/-! ### `raise` -/

@[simp] theorem State.raise_cmd (s : State) (k : ErrKind) : (s.raise k).cmd = s.cmd := rfl
@[simp] theorem State.raise_busy (s : State) (k : ErrKind) : (s.raise k).busy = false := rfl
@[simp] theorem State.raise_done (s : State) (k : ErrKind) : (s.raise k).done = true := rfl
@[simp] theorem State.raise_err (s : State) (k : ErrKind) : (s.raise k).err = true := rfl
@[simp] theorem State.raise_result (s : State) (k : ErrKind) : (s.raise k).result = 0xFFFFFFFF#32 := rfl
@[simp] theorem State.raise_errcode (s : State) (k : ErrKind) : (s.raise k).errcode = k := rfl
@[simp] theorem State.raise_arg0 (s : State) (k : ErrKind) : (s.raise k).arg0 = s.arg0 := rfl
@[simp] theorem State.raise_arg1 (s : State) (k : ErrKind) : (s.raise k).arg1 = s.arg1 := rfl
@[simp] theorem State.raise_arg2 (s : State) (k : ErrKind) : (s.raise k).arg2 = s.arg2 := rfl
@[simp] theorem State.raise_arg3 (s : State) (k : ErrKind) : (s.raise k).arg3 = s.arg3 := rfl
@[simp] theorem State.raise_arg4 (s : State) (k : ErrKind) : (s.raise k).arg4 = s.arg4 := rfl
@[simp] theorem State.raise_arg5 (s : State) (k : ErrKind) : (s.raise k).arg5 = s.arg5 := rfl
@[simp] theorem State.raise_ctx (s : State) (k : ErrKind) : (s.raise k).ctx = s.ctx := rfl
@[simp] theorem State.raise_work (s : State) (k : ErrKind) : (s.raise k).work = s.work := rfl
@[simp] theorem State.raise_dec (s : State) (k : ErrKind) : (s.raise k).dec = s.dec := rfl
@[simp] theorem State.raise_win (s : State) (k : ErrKind) : (s.raise k).win = s.win := rfl
@[simp] theorem State.raise_cout (s : State) (k : ErrKind) : (s.raise k).cout = s.cout := rfl
@[simp] theorem State.raise_din (s : State) (k : ErrKind) : (s.raise k).din = s.din := rfl
@[simp] theorem State.raise_dout (s : State) (k : ErrKind) : (s.raise k).dout = s.dout := rfl
@[simp] theorem State.raise_host (s : State) (k : ErrKind) : (s.raise k).host = s.host := rfl
@[simp] theorem State.raise_bus (s : State) (k : ErrKind) : (s.raise k).bus = s.bus := rfl
@[simp] theorem State.raise_serial (s : State) (k : ErrKind) : (s.raise k).serial = s.serial := rfl
@[simp] theorem State.raise_gen (s : State) (k : ErrKind) : (s.raise k).gen = s.gen := rfl

/-! ### `finish` -/

@[simp] theorem State.finish_cmd (s : State) (r : Word) : (s.finish r).cmd = s.cmd := rfl
@[simp] theorem State.finish_busy (s : State) (r : Word) : (s.finish r).busy = false := rfl
@[simp] theorem State.finish_done (s : State) (r : Word) : (s.finish r).done = true := rfl
@[simp] theorem State.finish_err (s : State) (r : Word) : (s.finish r).err = false := rfl
@[simp] theorem State.finish_result (s : State) (r : Word) : (s.finish r).result = r := rfl
@[simp] theorem State.finish_errcode (s : State) (r : Word) : (s.finish r).errcode = .ok := rfl
@[simp] theorem State.finish_arg0 (s : State) (r : Word) : (s.finish r).arg0 = s.arg0 := rfl
@[simp] theorem State.finish_arg1 (s : State) (r : Word) : (s.finish r).arg1 = s.arg1 := rfl
@[simp] theorem State.finish_arg2 (s : State) (r : Word) : (s.finish r).arg2 = s.arg2 := rfl
@[simp] theorem State.finish_arg3 (s : State) (r : Word) : (s.finish r).arg3 = s.arg3 := rfl
@[simp] theorem State.finish_arg4 (s : State) (r : Word) : (s.finish r).arg4 = s.arg4 := rfl
@[simp] theorem State.finish_arg5 (s : State) (r : Word) : (s.finish r).arg5 = s.arg5 := rfl
@[simp] theorem State.finish_ctx (s : State) (r : Word) : (s.finish r).ctx = s.ctx := rfl
@[simp] theorem State.finish_work (s : State) (r : Word) : (s.finish r).work = s.work := rfl
@[simp] theorem State.finish_dec (s : State) (r : Word) : (s.finish r).dec = s.dec := rfl
@[simp] theorem State.finish_win (s : State) (r : Word) : (s.finish r).win = s.win := rfl
@[simp] theorem State.finish_cout (s : State) (r : Word) : (s.finish r).cout = s.cout := rfl
@[simp] theorem State.finish_din (s : State) (r : Word) : (s.finish r).din = s.din := rfl
@[simp] theorem State.finish_dout (s : State) (r : Word) : (s.finish r).dout = s.dout := rfl
@[simp] theorem State.finish_host (s : State) (r : Word) : (s.finish r).host = s.host := rfl
@[simp] theorem State.finish_bus (s : State) (r : Word) : (s.finish r).bus = s.bus := rfl
@[simp] theorem State.finish_serial (s : State) (r : Word) : (s.finish r).serial = s.serial := rfl
@[simp] theorem State.finish_gen (s : State) (r : Word) : (s.finish r).gen = s.gen := rfl

/-! ### `beginCommand` -/

@[simp] theorem State.beginCommand_cmd (s : State) (w : Word) : (s.beginCommand w).cmd = w := rfl
@[simp] theorem State.beginCommand_busy (s : State) (w : Word) : (s.beginCommand w).busy = true := rfl
@[simp] theorem State.beginCommand_done (s : State) (w : Word) : (s.beginCommand w).done = false := rfl
@[simp] theorem State.beginCommand_err (s : State) (w : Word) : (s.beginCommand w).err = false := rfl
@[simp] theorem State.beginCommand_result (s : State) (w : Word) : (s.beginCommand w).result = 0#32 := rfl
@[simp] theorem State.beginCommand_errcode (s : State) (w : Word) : (s.beginCommand w).errcode = .ok := rfl
@[simp] theorem State.beginCommand_arg0 (s : State) (w : Word) : (s.beginCommand w).arg0 = s.arg0 := rfl
@[simp] theorem State.beginCommand_arg1 (s : State) (w : Word) : (s.beginCommand w).arg1 = s.arg1 := rfl
@[simp] theorem State.beginCommand_arg2 (s : State) (w : Word) : (s.beginCommand w).arg2 = s.arg2 := rfl
@[simp] theorem State.beginCommand_arg3 (s : State) (w : Word) : (s.beginCommand w).arg3 = s.arg3 := rfl
@[simp] theorem State.beginCommand_arg4 (s : State) (w : Word) : (s.beginCommand w).arg4 = s.arg4 := rfl
@[simp] theorem State.beginCommand_arg5 (s : State) (w : Word) : (s.beginCommand w).arg5 = s.arg5 := rfl
@[simp] theorem State.beginCommand_ctx (s : State) (w : Word) : (s.beginCommand w).ctx = s.ctx := rfl
@[simp] theorem State.beginCommand_work (s : State) (w : Word) : (s.beginCommand w).work = s.work := rfl
@[simp] theorem State.beginCommand_dec (s : State) (w : Word) : (s.beginCommand w).dec = s.dec := rfl
@[simp] theorem State.beginCommand_win (s : State) (w : Word) : (s.beginCommand w).win = s.win := rfl
@[simp] theorem State.beginCommand_cout (s : State) (w : Word) : (s.beginCommand w).cout = s.cout := rfl
@[simp] theorem State.beginCommand_din (s : State) (w : Word) : (s.beginCommand w).din = s.din := rfl
@[simp] theorem State.beginCommand_dout (s : State) (w : Word) : (s.beginCommand w).dout = s.dout := rfl
@[simp] theorem State.beginCommand_host (s : State) (w : Word) : (s.beginCommand w).host = s.host := rfl
@[simp] theorem State.beginCommand_bus (s : State) (w : Word) : (s.beginCommand w).bus = s.bus := rfl
@[simp] theorem State.beginCommand_serial (s : State) (w : Word) : (s.beginCommand w).serial = s.serial := rfl
@[simp] theorem State.beginCommand_gen (s : State) (w : Word) : (s.beginCommand w).gen = s.gen := rfl

/-! ### `expecting` -/

@[simp] theorem State.expecting_cmd (s : State) (f : Format) : (s.expecting f).cmd = s.cmd := rfl
@[simp] theorem State.expecting_busy (s : State) (f : Format) : (s.expecting f).busy = s.busy := rfl
@[simp] theorem State.expecting_done (s : State) (f : Format) : (s.expecting f).done = s.done := rfl
@[simp] theorem State.expecting_err (s : State) (f : Format) : (s.expecting f).err = s.err := rfl
@[simp] theorem State.expecting_result (s : State) (f : Format) : (s.expecting f).result = s.result := rfl
@[simp] theorem State.expecting_errcode (s : State) (f : Format) : (s.expecting f).errcode = s.errcode := rfl
@[simp] theorem State.expecting_arg0 (s : State) (f : Format) : (s.expecting f).arg0 = s.arg0 := rfl
@[simp] theorem State.expecting_arg1 (s : State) (f : Format) : (s.expecting f).arg1 = s.arg1 := rfl
@[simp] theorem State.expecting_arg2 (s : State) (f : Format) : (s.expecting f).arg2 = s.arg2 := rfl
@[simp] theorem State.expecting_arg3 (s : State) (f : Format) : (s.expecting f).arg3 = s.arg3 := rfl
@[simp] theorem State.expecting_arg4 (s : State) (f : Format) : (s.expecting f).arg4 = s.arg4 := rfl
@[simp] theorem State.expecting_arg5 (s : State) (f : Format) : (s.expecting f).arg5 = s.arg5 := rfl
@[simp] theorem State.expecting_ctx (s : State) (f : Format) : (s.expecting f).ctx = s.ctx := rfl
@[simp] theorem State.expecting_work (s : State) (f : Format) : (s.expecting f).work = s.work := rfl
@[simp] theorem State.expecting_dec (s : State) (f : Format) : (s.expecting f).dec = { s.dec with expect := f } := rfl
@[simp] theorem State.expecting_win (s : State) (f : Format) : (s.expecting f).win = s.win := rfl
@[simp] theorem State.expecting_cout (s : State) (f : Format) : (s.expecting f).cout = s.cout := rfl
@[simp] theorem State.expecting_din (s : State) (f : Format) : (s.expecting f).din = s.din := rfl
@[simp] theorem State.expecting_dout (s : State) (f : Format) : (s.expecting f).dout = s.dout := rfl
@[simp] theorem State.expecting_host (s : State) (f : Format) : (s.expecting f).host = s.host := rfl
@[simp] theorem State.expecting_bus (s : State) (f : Format) : (s.expecting f).bus = s.bus := rfl
@[simp] theorem State.expecting_serial (s : State) (f : Format) : (s.expecting f).serial = s.serial := rfl
@[simp] theorem State.expecting_gen (s : State) (f : Format) : (s.expecting f).gen = s.gen := rfl

/-! ### `dropContext` -/

@[simp] theorem State.dropContext_cmd (s : State) : (s.dropContext).cmd = s.cmd := rfl
@[simp] theorem State.dropContext_busy (s : State) : (s.dropContext).busy = s.busy := rfl
@[simp] theorem State.dropContext_done (s : State) : (s.dropContext).done = s.done := rfl
@[simp] theorem State.dropContext_err (s : State) : (s.dropContext).err = s.err := rfl
@[simp] theorem State.dropContext_result (s : State) : (s.dropContext).result = s.result := rfl
@[simp] theorem State.dropContext_errcode (s : State) : (s.dropContext).errcode = s.errcode := rfl
@[simp] theorem State.dropContext_arg0 (s : State) : (s.dropContext).arg0 = s.arg0 := rfl
@[simp] theorem State.dropContext_arg1 (s : State) : (s.dropContext).arg1 = s.arg1 := rfl
@[simp] theorem State.dropContext_arg2 (s : State) : (s.dropContext).arg2 = s.arg2 := rfl
@[simp] theorem State.dropContext_arg3 (s : State) : (s.dropContext).arg3 = s.arg3 := rfl
@[simp] theorem State.dropContext_arg4 (s : State) : (s.dropContext).arg4 = s.arg4 := rfl
@[simp] theorem State.dropContext_arg5 (s : State) : (s.dropContext).arg5 = s.arg5 := rfl
@[simp] theorem State.dropContext_ctx (s : State) : (s.dropContext).ctx = { s.ctx with valid := false, cmdcount := 0#32 } := rfl
@[simp] theorem State.dropContext_work (s : State) : (s.dropContext).work = s.work := rfl
@[simp] theorem State.dropContext_dec (s : State) : (s.dropContext).dec = s.dec := rfl
@[simp] theorem State.dropContext_win (s : State) : (s.dropContext).win = s.win := rfl
@[simp] theorem State.dropContext_cout (s : State) : (s.dropContext).cout = s.cout := rfl
@[simp] theorem State.dropContext_din (s : State) : (s.dropContext).din = s.din := rfl
@[simp] theorem State.dropContext_dout (s : State) : (s.dropContext).dout = s.dout := rfl
@[simp] theorem State.dropContext_host (s : State) : (s.dropContext).host = s.host := rfl
@[simp] theorem State.dropContext_bus (s : State) : (s.dropContext).bus = s.bus := rfl
@[simp] theorem State.dropContext_serial (s : State) : (s.dropContext).serial = s.serial := rfl
@[simp] theorem State.dropContext_gen (s : State) : (s.dropContext).gen = s.gen := rfl

/-! ### `withMem`, `writeBytes`, `unspecify`: every field but the memories (and `serial` for `unspecify`) -/

@[simp] theorem State.withMem_cmd (s : State) (sp : Space) (m : Memory) : (s.withMem sp m).cmd = s.cmd := by
  cases sp <;> rfl
@[simp] theorem State.withMem_busy (s : State) (sp : Space) (m : Memory) : (s.withMem sp m).busy = s.busy := by
  cases sp <;> rfl
@[simp] theorem State.withMem_done (s : State) (sp : Space) (m : Memory) : (s.withMem sp m).done = s.done := by
  cases sp <;> rfl
@[simp] theorem State.withMem_err (s : State) (sp : Space) (m : Memory) : (s.withMem sp m).err = s.err := by
  cases sp <;> rfl
@[simp] theorem State.withMem_result (s : State) (sp : Space) (m : Memory) : (s.withMem sp m).result = s.result := by
  cases sp <;> rfl
@[simp] theorem State.withMem_errcode (s : State) (sp : Space) (m : Memory) : (s.withMem sp m).errcode = s.errcode := by
  cases sp <;> rfl
@[simp] theorem State.withMem_arg0 (s : State) (sp : Space) (m : Memory) : (s.withMem sp m).arg0 = s.arg0 := by
  cases sp <;> rfl
@[simp] theorem State.withMem_arg1 (s : State) (sp : Space) (m : Memory) : (s.withMem sp m).arg1 = s.arg1 := by
  cases sp <;> rfl
@[simp] theorem State.withMem_arg2 (s : State) (sp : Space) (m : Memory) : (s.withMem sp m).arg2 = s.arg2 := by
  cases sp <;> rfl
@[simp] theorem State.withMem_arg3 (s : State) (sp : Space) (m : Memory) : (s.withMem sp m).arg3 = s.arg3 := by
  cases sp <;> rfl
@[simp] theorem State.withMem_arg4 (s : State) (sp : Space) (m : Memory) : (s.withMem sp m).arg4 = s.arg4 := by
  cases sp <;> rfl
@[simp] theorem State.withMem_arg5 (s : State) (sp : Space) (m : Memory) : (s.withMem sp m).arg5 = s.arg5 := by
  cases sp <;> rfl
@[simp] theorem State.withMem_ctx (s : State) (sp : Space) (m : Memory) : (s.withMem sp m).ctx = s.ctx := by
  cases sp <;> rfl
@[simp] theorem State.withMem_work (s : State) (sp : Space) (m : Memory) : (s.withMem sp m).work = s.work := by
  cases sp <;> rfl
@[simp] theorem State.withMem_dec (s : State) (sp : Space) (m : Memory) : (s.withMem sp m).dec = s.dec := by
  cases sp <;> rfl
@[simp] theorem State.withMem_host (s : State) (sp : Space) (m : Memory) : (s.withMem sp m).host = s.host := by
  cases sp <;> rfl
@[simp] theorem State.withMem_bus (s : State) (sp : Space) (m : Memory) : (s.withMem sp m).bus = s.bus := by
  cases sp <;> rfl
@[simp] theorem State.withMem_serial (s : State) (sp : Space) (m : Memory) : (s.withMem sp m).serial = s.serial := by
  cases sp <;> rfl
@[simp] theorem State.withMem_gen (s : State) (sp : Space) (m : Memory) : (s.withMem sp m).gen = s.gen := by
  cases sp <;> rfl
@[simp] theorem State.writeBytes_cmd (s : State) (sp : Space) (a : Nat) (bs : List Byte) :
    (s.writeBytes sp a bs).cmd = s.cmd := by simp [State.writeBytes]
@[simp] theorem State.writeBytes_busy (s : State) (sp : Space) (a : Nat) (bs : List Byte) :
    (s.writeBytes sp a bs).busy = s.busy := by simp [State.writeBytes]
@[simp] theorem State.writeBytes_done (s : State) (sp : Space) (a : Nat) (bs : List Byte) :
    (s.writeBytes sp a bs).done = s.done := by simp [State.writeBytes]
@[simp] theorem State.writeBytes_err (s : State) (sp : Space) (a : Nat) (bs : List Byte) :
    (s.writeBytes sp a bs).err = s.err := by simp [State.writeBytes]
@[simp] theorem State.writeBytes_result (s : State) (sp : Space) (a : Nat) (bs : List Byte) :
    (s.writeBytes sp a bs).result = s.result := by simp [State.writeBytes]
@[simp] theorem State.writeBytes_errcode (s : State) (sp : Space) (a : Nat) (bs : List Byte) :
    (s.writeBytes sp a bs).errcode = s.errcode := by simp [State.writeBytes]
@[simp] theorem State.writeBytes_arg0 (s : State) (sp : Space) (a : Nat) (bs : List Byte) :
    (s.writeBytes sp a bs).arg0 = s.arg0 := by simp [State.writeBytes]
@[simp] theorem State.writeBytes_arg1 (s : State) (sp : Space) (a : Nat) (bs : List Byte) :
    (s.writeBytes sp a bs).arg1 = s.arg1 := by simp [State.writeBytes]
@[simp] theorem State.writeBytes_arg2 (s : State) (sp : Space) (a : Nat) (bs : List Byte) :
    (s.writeBytes sp a bs).arg2 = s.arg2 := by simp [State.writeBytes]
@[simp] theorem State.writeBytes_arg3 (s : State) (sp : Space) (a : Nat) (bs : List Byte) :
    (s.writeBytes sp a bs).arg3 = s.arg3 := by simp [State.writeBytes]
@[simp] theorem State.writeBytes_arg4 (s : State) (sp : Space) (a : Nat) (bs : List Byte) :
    (s.writeBytes sp a bs).arg4 = s.arg4 := by simp [State.writeBytes]
@[simp] theorem State.writeBytes_arg5 (s : State) (sp : Space) (a : Nat) (bs : List Byte) :
    (s.writeBytes sp a bs).arg5 = s.arg5 := by simp [State.writeBytes]
@[simp] theorem State.writeBytes_ctx (s : State) (sp : Space) (a : Nat) (bs : List Byte) :
    (s.writeBytes sp a bs).ctx = s.ctx := by simp [State.writeBytes]
@[simp] theorem State.writeBytes_work (s : State) (sp : Space) (a : Nat) (bs : List Byte) :
    (s.writeBytes sp a bs).work = s.work := by simp [State.writeBytes]
@[simp] theorem State.writeBytes_dec (s : State) (sp : Space) (a : Nat) (bs : List Byte) :
    (s.writeBytes sp a bs).dec = s.dec := by simp [State.writeBytes]
@[simp] theorem State.writeBytes_host (s : State) (sp : Space) (a : Nat) (bs : List Byte) :
    (s.writeBytes sp a bs).host = s.host := by simp [State.writeBytes]
@[simp] theorem State.writeBytes_bus (s : State) (sp : Space) (a : Nat) (bs : List Byte) :
    (s.writeBytes sp a bs).bus = s.bus := by simp [State.writeBytes]
@[simp] theorem State.writeBytes_serial (s : State) (sp : Space) (a : Nat) (bs : List Byte) :
    (s.writeBytes sp a bs).serial = s.serial := by simp [State.writeBytes]
@[simp] theorem State.writeBytes_gen (s : State) (sp : Space) (a : Nat) (bs : List Byte) :
    (s.writeBytes sp a bs).gen = s.gen := by simp [State.writeBytes]
@[simp] theorem State.unspecify_cmd (s : State) (sp : Space) (lo hi : Nat) :
    (s.unspecify sp lo hi).cmd = s.cmd := by simp [State.unspecify]
@[simp] theorem State.unspecify_busy (s : State) (sp : Space) (lo hi : Nat) :
    (s.unspecify sp lo hi).busy = s.busy := by simp [State.unspecify]
@[simp] theorem State.unspecify_done (s : State) (sp : Space) (lo hi : Nat) :
    (s.unspecify sp lo hi).done = s.done := by simp [State.unspecify]
@[simp] theorem State.unspecify_err (s : State) (sp : Space) (lo hi : Nat) :
    (s.unspecify sp lo hi).err = s.err := by simp [State.unspecify]
@[simp] theorem State.unspecify_result (s : State) (sp : Space) (lo hi : Nat) :
    (s.unspecify sp lo hi).result = s.result := by simp [State.unspecify]
@[simp] theorem State.unspecify_errcode (s : State) (sp : Space) (lo hi : Nat) :
    (s.unspecify sp lo hi).errcode = s.errcode := by simp [State.unspecify]
@[simp] theorem State.unspecify_arg0 (s : State) (sp : Space) (lo hi : Nat) :
    (s.unspecify sp lo hi).arg0 = s.arg0 := by simp [State.unspecify]
@[simp] theorem State.unspecify_arg1 (s : State) (sp : Space) (lo hi : Nat) :
    (s.unspecify sp lo hi).arg1 = s.arg1 := by simp [State.unspecify]
@[simp] theorem State.unspecify_arg2 (s : State) (sp : Space) (lo hi : Nat) :
    (s.unspecify sp lo hi).arg2 = s.arg2 := by simp [State.unspecify]
@[simp] theorem State.unspecify_arg3 (s : State) (sp : Space) (lo hi : Nat) :
    (s.unspecify sp lo hi).arg3 = s.arg3 := by simp [State.unspecify]
@[simp] theorem State.unspecify_arg4 (s : State) (sp : Space) (lo hi : Nat) :
    (s.unspecify sp lo hi).arg4 = s.arg4 := by simp [State.unspecify]
@[simp] theorem State.unspecify_arg5 (s : State) (sp : Space) (lo hi : Nat) :
    (s.unspecify sp lo hi).arg5 = s.arg5 := by simp [State.unspecify]
@[simp] theorem State.unspecify_ctx (s : State) (sp : Space) (lo hi : Nat) :
    (s.unspecify sp lo hi).ctx = s.ctx := by simp [State.unspecify]
@[simp] theorem State.unspecify_work (s : State) (sp : Space) (lo hi : Nat) :
    (s.unspecify sp lo hi).work = s.work := by simp [State.unspecify]
@[simp] theorem State.unspecify_dec (s : State) (sp : Space) (lo hi : Nat) :
    (s.unspecify sp lo hi).dec = s.dec := by simp [State.unspecify]
@[simp] theorem State.unspecify_host (s : State) (sp : Space) (lo hi : Nat) :
    (s.unspecify sp lo hi).host = s.host := by simp [State.unspecify]
@[simp] theorem State.unspecify_bus (s : State) (sp : Space) (lo hi : Nat) :
    (s.unspecify sp lo hi).bus = s.bus := by simp [State.unspecify]
@[simp] theorem State.unspecify_gen (s : State) (sp : Space) (lo hi : Nat) :
    (s.unspecify sp lo hi).gen = s.gen := by simp [State.unspecify]
@[simp] theorem State.unspecify_serial (s : State) (sp : Space) (lo hi : Nat) :
    (s.unspecify sp lo hi).serial = s.serial + (hi - lo) := rfl

/-! ### The memories by space -/

@[simp] theorem State.memOf_withMem_same (s : State) (sp : Space) (m : Memory) : (s.withMem sp m).memOf sp = m := by
  cases sp <;> rfl

theorem State.memOf_withMem_ne (s : State) {sp sp' : Space} (m : Memory) (h : sp' ≠ sp) :
    (s.withMem sp m).memOf sp' = s.memOf sp' := by
  cases sp <;> cases sp' <;> first | rfl | exact absurd rfl h

@[simp] theorem State.memOf_withDec (s : State) (d : Dec) (sp : Space) : (s.withDec d).memOf sp = s.memOf sp := by
  cases sp <;> rfl
@[simp] theorem State.memOf_raise (s : State) (k : ErrKind) (sp : Space) : (s.raise k).memOf sp = s.memOf sp := by
  cases sp <;> rfl
@[simp] theorem State.memOf_finish (s : State) (r : Word) (sp : Space) : (s.finish r).memOf sp = s.memOf sp := by
  cases sp <;> rfl
@[simp] theorem State.memOf_beginCommand (s : State) (w : Word) (sp : Space) :
    (s.beginCommand w).memOf sp = s.memOf sp := by cases sp <;> rfl
@[simp] theorem State.memOf_expecting (s : State) (f : Format) (sp : Space) : (s.expecting f).memOf sp = s.memOf sp := by
  cases sp <;> rfl
@[simp] theorem State.memOf_dropContext (s : State) (sp : Space) : s.dropContext.memOf sp = s.memOf sp := by
  cases sp <;> rfl

@[simp] theorem State.memOf_win (s : State) : s.memOf .win = s.win := rfl
@[simp] theorem State.memOf_cout (s : State) : s.memOf .cout = s.cout := rfl
@[simp] theorem State.memOf_din (s : State) : s.memOf .din = s.din := rfl
@[simp] theorem State.memOf_dout (s : State) : s.memOf .dout = s.dout := rfl

end Sys2Proof.Machine
end

