-- ==== Sys2Proof/Laws/Memory.lean ====
section
/-! SUPPORT. The laws of the buffer memories: what a read gives after a write, and that every memory operation keeps the
canonical form. -/

namespace Sys2Proof.Machine

/-! ### Reading -/

@[simp] theorem Memory.get?_nil (a : Nat) : Memory.get? [] a = none := rfl

theorem Memory.get?_append (m n : Memory) (a : Nat) :
    Memory.get? (m ++ n) a = (Memory.get? m a).or (Memory.get? n a) := by
  induction m with
  | nil => simp
  | cons c m ih =>
    obtain ⟨k, b⟩ := c
    by_cases h : k = a <;> simp [Memory.get?, h, ih]

/-- A filter on addresses reads as the memory where the filter holds, and as unwritten elsewhere. -/
theorem Memory.get?_filter (p : Nat → Bool) (m : Memory) (a : Nat) :
    Memory.get? (m.filter (fun c => p c.1)) a = if p a then Memory.get? m a else none := by
  induction m with
  | nil => simp
  | cons c m ih =>
    obtain ⟨k, b⟩ := c
    by_cases hp : p k = true
    · by_cases hk : k = a
      · subst hk; simp [hp, Memory.get?]
      · simp [hp, Memory.get?, hk, ih]
    · by_cases hk : k = a
      · subst hk; simp [hp, ih]
      · simp [hp, Memory.get?, hk, ih]

theorem Memory.get?_cellsAt (bs : List Byte) (a x : Nat) :
    Memory.get? (Memory.cellsAt a bs) x = if a ≤ x then bs[x - a]? else none := by
  induction bs generalizing a with
  | nil => simp [Memory.cellsAt]
  | cons b bs ih =>
    rw [Memory.cellsAt, Memory.get?, ih]
    by_cases h : a = x
    · subst h; simp
    · by_cases hlt : a ≤ x
      · have h1 : a + 1 ≤ x := by omega
        have h2 : x - a = (x - (a + 1)) + 1 := by omega
        simp [h, hlt, h1, h2]
      · have h1 : ¬ a + 1 ≤ x := by omega
        simp [h, hlt, h1]

/-- Reading after a write (R71): the written byte inside the run, the old one elsewhere. -/
theorem Memory.get?_splice (m : Memory) (a : Nat) (bs : List Byte) (x : Nat) :
    Memory.get? (Memory.splice m a bs) x =
      if a ≤ x ∧ x < a + bs.length then bs[x - a]? else Memory.get? m x := by
  rw [Memory.splice, Memory.get?_append, Memory.get?_append, Memory.get?_cellsAt,
    Memory.get?_filter (fun k => decide (k < a)), Memory.get?_filter (fun k => decide (a + bs.length ≤ k))]
  by_cases h1 : a ≤ x
  · by_cases h2 : x < a + bs.length
    · have h3 : ¬ x < a := by omega
      have h4 : ¬ a + bs.length ≤ x := by omega
      simp [h1, h2, h3, h4]
    · have h3 : ¬ x < a := by omega
      have h4 : a + bs.length ≤ x := by omega
      have h5 : bs.length ≤ x - a := by omega
      simp [h1, h2, h3, h4, h5]
  · have h3 : x < a := by omega
    have h4 : ¬ a + bs.length ≤ x := by omega
    simp [h1, h3, h4]

/-! ### The canonical form -/

theorem Memory.rising_mono {lo lo' hi : Nat} {m : Memory} (h : lo' ≤ lo) (hm : Memory.rising lo hi m = true) :
    Memory.rising lo' hi m = true := by
  cases m with
  | nil => rfl
  | cons c m =>
    obtain ⟨k, b⟩ := c
    simp only [Memory.rising, Bool.and_eq_true, decide_eq_true_eq] at hm ⊢
    exact ⟨⟨by omega, hm.1.2⟩, hm.2⟩

/-- Two rising runs, the first ending below `mid`, join to a rising run. -/
theorem Memory.rising_append {lo mid hi : Nat} {m n : Memory} (hlm : lo ≤ mid) (hm : Memory.rising lo mid m = true)
    (hn : Memory.rising mid hi n = true) (hmh : mid ≤ hi) : Memory.rising lo hi (m ++ n) = true := by
  induction m generalizing lo with
  | nil => exact Memory.rising_mono hlm hn
  | cons c m ih =>
    obtain ⟨k, b⟩ := c
    simp only [Memory.rising, Bool.and_eq_true, decide_eq_true_eq] at hm
    simp only [List.cons_append, Memory.rising, Bool.and_eq_true, decide_eq_true_eq]
    exact ⟨⟨hm.1.1, by omega⟩, ih (by omega) hm.2⟩

theorem Memory.rising_cellsAt (bs : List Byte) (a : Nat) :
    Memory.rising a (a + bs.length) (Memory.cellsAt a bs) = true := by
  induction bs generalizing a with
  | nil => rfl
  | cons b bs ih =>
    have h := ih (a + 1)
    rw [show a + 1 + bs.length = a + (bs.length + 1) by omega] at h
    simp [Memory.cellsAt, Memory.rising, h]

theorem Memory.rising_filter_lt {lo hi a : Nat} {m : Memory} (hm : Memory.rising lo hi m = true) :
    Memory.rising lo (min a hi) (m.filter (fun c => decide (c.1 < a))) = true := by
  induction m generalizing lo with
  | nil => rfl
  | cons c m ih =>
    obtain ⟨k, b⟩ := c
    simp only [Memory.rising, Bool.and_eq_true, decide_eq_true_eq] at hm
    have hrec := ih hm.2
    by_cases hk : k < a
    · simp only [List.filter_cons, hk, decide_true, if_true, Memory.rising, Bool.and_eq_true, decide_eq_true_eq]
      exact ⟨⟨hm.1.1, by omega⟩, hrec⟩
    · simp only [List.filter_cons, hk, decide_false, Bool.false_eq_true, if_false]
      exact Memory.rising_mono (by omega) hrec

theorem Memory.rising_filter_ge {lo hi a : Nat} {m : Memory} (hm : Memory.rising lo hi m = true) :
    Memory.rising (max lo a) hi (m.filter (fun c => decide (a ≤ c.1))) = true := by
  induction m generalizing lo with
  | nil => rfl
  | cons c m ih =>
    obtain ⟨k, b⟩ := c
    simp only [Memory.rising, Bool.and_eq_true, decide_eq_true_eq] at hm
    have hrec := ih hm.2
    by_cases hk : a ≤ k
    · simp only [List.filter_cons, hk, decide_true, if_true, Memory.rising, Bool.and_eq_true, decide_eq_true_eq]
      exact ⟨⟨by omega, hm.1.2⟩, Memory.rising_mono (by omega) hrec⟩
    · simp only [List.filter_cons, hk, decide_false, Bool.false_eq_true, if_false]
      exact Memory.rising_mono (by omega) hrec

/-- A write inside the memory keeps the canonical form. -/
theorem Memory.wf_splice {m : Memory} {a : Nat} {bs : List Byte} (hm : Memory.wf m = true)
    (ha : a + bs.length ≤ Config.memCap) : Memory.wf (Memory.splice m a bs) = true := by
  unfold Memory.wf Memory.splice at *
  have hmin : min a Config.memCap = a := by omega
  have h1 := Memory.rising_filter_lt (a := a) hm
  have h3 := Memory.rising_filter_ge (a := a + bs.length) hm
  rw [hmin] at h1
  rw [Nat.zero_max] at h3
  refine Memory.rising_append (mid := a + bs.length) (by omega) ?_ h3 ha
  exact Memory.rising_append (mid := a) (by omega) h1 (Memory.rising_cellsAt bs a) (by omega)

/-! ### Reading and writing a state's memories -/

/-- Two states with the same memory of a space, and the same reset number, read the same there. -/
theorem State.readByte_congr {s t : State} {sp : Space} (hm : s.memOf sp = t.memOf sp) (hg : s.gen = t.gen) (a : Nat) :
    s.readByte sp a = t.readByte sp a := by simp [State.readByte, hm, hg]

@[simp] theorem State.readByte_withDec (s : State) (d : Dec) (sp : Space) (a : Nat) :
    (s.withDec d).readByte sp a = s.readByte sp a := State.readByte_congr (by simp) (by simp) a
@[simp] theorem State.readByte_raise (s : State) (k : ErrKind) (sp : Space) (a : Nat) :
    (s.raise k).readByte sp a = s.readByte sp a := State.readByte_congr (by simp) (by simp) a
@[simp] theorem State.readByte_finish (s : State) (r : Word) (sp : Space) (a : Nat) :
    (s.finish r).readByte sp a = s.readByte sp a := State.readByte_congr (by simp) (by simp) a
@[simp] theorem State.readByte_beginCommand (s : State) (w : Word) (sp : Space) (a : Nat) :
    (s.beginCommand w).readByte sp a = s.readByte sp a := State.readByte_congr (by simp) (by simp) a
@[simp] theorem State.readByte_expecting (s : State) (f : Format) (sp : Space) (a : Nat) :
    (s.expecting f).readByte sp a = s.readByte sp a := State.readByte_congr (by simp) (by simp) a
@[simp] theorem State.readByte_dropContext (s : State) (sp : Space) (a : Nat) :
    s.dropContext.readByte sp a = s.readByte sp a := State.readByte_congr (by simp) (by simp) a

/-- A byte of the space written to: the new byte inside the run, the old one elsewhere. -/
theorem State.readByte_writeBytes_same (s : State) (sp : Space) (a : Nat) (bs : List Byte) (x : Nat) :
    (s.writeBytes sp a bs).readByte sp x =
      if h : a ≤ x ∧ x < a + bs.length then bs[x - a]'(by omega) else s.readByte sp x := by
  by_cases h : a ≤ x ∧ x < a + bs.length
  · have hx : x - a < bs.length := by omega
    simp [State.readByte, State.writeBytes, Memory.get?_splice, h, hx]
  · simp [State.readByte, State.writeBytes, Memory.get?_splice, h]

/-- A byte of another space is not changed by a write. -/
theorem State.readByte_writeBytes_ne (s : State) {sp sp' : Space} (h : sp' ≠ sp) (a : Nat) (bs : List Byte) (x : Nat) :
    (s.writeBytes sp a bs).readByte sp' x = s.readByte sp' x :=
  State.readByte_congr (by simp [State.writeBytes, State.memOf_withMem_ne _ _ h]) (by simp) x

@[simp] theorem State.readBytes_length (s : State) (sp : Space) (a n : Nat) : (s.readBytes sp a n).length = n := by
  induction n generalizing a with
  | zero => rfl
  | succ n ih => simp [State.readBytes, ih]

@[simp] theorem freeBytes_length (k n : Nat) : (freeBytes k n).length = n := by
  induction n generalizing k with
  | zero => rfl
  | succ n ih => simp [freeBytes, ih]

theorem State.readBytes_getElem (s : State) (sp : Space) (a n i : Nat) (h : i < (s.readBytes sp a n).length) :
    (s.readBytes sp a n)[i] = s.readByte sp (a + i) := by
  induction n generalizing a i with
  | zero => simp [State.readBytes] at h
  | succ n ih =>
    cases i with
    | zero => simp [State.readBytes]
    | succ i =>
      simp only [State.readBytes, List.getElem_cons_succ]
      rw [ih, show a + 1 + i = a + (i + 1) by omega]

/-- Reads of a run agree where the bytes agree. -/
theorem State.readBytes_congr {s t : State} {sp : Space} {a n : Nat}
    (h : ∀ i, i < n → s.readByte sp (a + i) = t.readByte sp (a + i)) : s.readBytes sp a n = t.readBytes sp a n := by
  induction n generalizing a with
  | zero => rfl
  | succ n ih =>
    simp only [State.readBytes]
    rw [show s.readByte sp a = t.readByte sp a from h 0 (by omega)]
    rw [ih (fun i hi => by have := h (i + 1) (by omega); rwa [show a + (i + 1) = a + 1 + i by omega] at this)]

/-- A byte outside an unspecified range is not changed. -/
theorem State.readByte_unspecify_out (s : State) (sp sp' : Space) (lo hi x : Nat)
    (h : sp' ≠ sp ∨ x < lo ∨ hi ≤ x) : (s.unspecify sp lo hi).readByte sp' x = s.readByte sp' x := by
  have hc : (s.unspecify sp lo hi).readByte sp' x =
      (s.writeBytes sp lo (freeBytes s.serial (hi - lo))).readByte sp' x :=
    State.readByte_congr (by cases sp' <;> rfl) (by simp) x
  rw [hc]
  by_cases hs : sp' = sp
  · subst hs
    rw [State.readByte_writeBytes_same]
    have hx : ¬ (lo ≤ x ∧ x < lo + (freeBytes s.serial (hi - lo)).length) := by
      rw [freeBytes_length]
      rcases h with h | h | h
      · exact absurd rfl h
      · omega
      · omega
    rw [dif_neg hx]
  · exact State.readByte_writeBytes_ne _ hs _ _ _

/-- The memories of other spaces are not changed by a write. -/
theorem State.memOf_writeBytes_ne (s : State) {sp sp' : Space} (h : sp' ≠ sp) (a : Nat) (bs : List Byte) :
    (s.writeBytes sp a bs).memOf sp' = s.memOf sp' := State.memOf_withMem_ne _ _ h

/-- The memories of other spaces are not changed by leaving a range unspecified. -/
theorem State.memOf_unspecify_ne (s : State) {sp sp' : Space} (h : sp' ≠ sp) (lo hi : Nat) :
    (s.unspecify sp lo hi).memOf sp' = s.memOf sp' := by
  rw [← State.memOf_writeBytes_ne s h lo (freeBytes s.serial (hi - lo))]
  cases sp' <;> rfl

theorem State.memoriesWf_writeBytes {s : State} (hs : s.memoriesWf) {sp : Space} {a : Nat} {bs : List Byte}
    (h : a + bs.length ≤ Config.memCap) : (s.writeBytes sp a bs).memoriesWf := by
  intro sp'
  by_cases hsp : sp' = sp
  · subst hsp; simpa [State.writeBytes] using Memory.wf_splice (hs sp') h
  · rw [State.memOf_writeBytes_ne s hsp]; exact hs sp'

theorem State.memoriesWf_unspecify {s : State} (hs : s.memoriesWf) {sp : Space} {lo hi : Nat}
    (h : hi ≤ Config.memCap) (hlo : lo ≤ hi) : (s.unspecify sp lo hi).memoriesWf := by
  have hw := State.memoriesWf_writeBytes hs (sp := sp) (a := lo) (bs := freeBytes s.serial (hi - lo))
    (by rw [freeBytes_length]; omega)
  intro sp'
  have := hw sp'
  cases sp' <;> exact this

end Sys2Proof.Machine
end

