-- ==== Sys2Proof/Laws/Decoder.lean ====
section
/-! SUPPORT. One lemma per shared operation of the Block Decoder: what it can do when it answers. -/

namespace Sys2Proof.Machine

/-! ### The forward copy changes `DOUT` only -/

@[simp] theorem State.copyForward_cmd (s : State) (off op n : Nat) : (s.copyForward off op n).cmd = s.cmd := by
  induction n generalizing s op with
  | zero => rfl
  | succ n ih => simp [State.copyForward, ih]
@[simp] theorem State.copyForward_busy (s : State) (off op n : Nat) : (s.copyForward off op n).busy = s.busy := by
  induction n generalizing s op with
  | zero => rfl
  | succ n ih => simp [State.copyForward, ih]
@[simp] theorem State.copyForward_done (s : State) (off op n : Nat) : (s.copyForward off op n).done = s.done := by
  induction n generalizing s op with
  | zero => rfl
  | succ n ih => simp [State.copyForward, ih]
@[simp] theorem State.copyForward_err (s : State) (off op n : Nat) : (s.copyForward off op n).err = s.err := by
  induction n generalizing s op with
  | zero => rfl
  | succ n ih => simp [State.copyForward, ih]
@[simp] theorem State.copyForward_result (s : State) (off op n : Nat) : (s.copyForward off op n).result = s.result := by
  induction n generalizing s op with
  | zero => rfl
  | succ n ih => simp [State.copyForward, ih]
@[simp] theorem State.copyForward_errcode (s : State) (off op n : Nat) : (s.copyForward off op n).errcode = s.errcode := by
  induction n generalizing s op with
  | zero => rfl
  | succ n ih => simp [State.copyForward, ih]
@[simp] theorem State.copyForward_arg0 (s : State) (off op n : Nat) : (s.copyForward off op n).arg0 = s.arg0 := by
  induction n generalizing s op with
  | zero => rfl
  | succ n ih => simp [State.copyForward, ih]
@[simp] theorem State.copyForward_arg1 (s : State) (off op n : Nat) : (s.copyForward off op n).arg1 = s.arg1 := by
  induction n generalizing s op with
  | zero => rfl
  | succ n ih => simp [State.copyForward, ih]
@[simp] theorem State.copyForward_arg2 (s : State) (off op n : Nat) : (s.copyForward off op n).arg2 = s.arg2 := by
  induction n generalizing s op with
  | zero => rfl
  | succ n ih => simp [State.copyForward, ih]
@[simp] theorem State.copyForward_arg3 (s : State) (off op n : Nat) : (s.copyForward off op n).arg3 = s.arg3 := by
  induction n generalizing s op with
  | zero => rfl
  | succ n ih => simp [State.copyForward, ih]
@[simp] theorem State.copyForward_arg4 (s : State) (off op n : Nat) : (s.copyForward off op n).arg4 = s.arg4 := by
  induction n generalizing s op with
  | zero => rfl
  | succ n ih => simp [State.copyForward, ih]
@[simp] theorem State.copyForward_arg5 (s : State) (off op n : Nat) : (s.copyForward off op n).arg5 = s.arg5 := by
  induction n generalizing s op with
  | zero => rfl
  | succ n ih => simp [State.copyForward, ih]
@[simp] theorem State.copyForward_ctx (s : State) (off op n : Nat) : (s.copyForward off op n).ctx = s.ctx := by
  induction n generalizing s op with
  | zero => rfl
  | succ n ih => simp [State.copyForward, ih]
@[simp] theorem State.copyForward_work (s : State) (off op n : Nat) : (s.copyForward off op n).work = s.work := by
  induction n generalizing s op with
  | zero => rfl
  | succ n ih => simp [State.copyForward, ih]
@[simp] theorem State.copyForward_dec (s : State) (off op n : Nat) : (s.copyForward off op n).dec = s.dec := by
  induction n generalizing s op with
  | zero => rfl
  | succ n ih => simp [State.copyForward, ih]
@[simp] theorem State.copyForward_win (s : State) (off op n : Nat) : (s.copyForward off op n).win = s.win := by
  induction n generalizing s op with
  | zero => rfl
  | succ n ih => simp [State.copyForward, ih, State.writeBytes, State.withMem]
@[simp] theorem State.copyForward_cout (s : State) (off op n : Nat) : (s.copyForward off op n).cout = s.cout := by
  induction n generalizing s op with
  | zero => rfl
  | succ n ih => simp [State.copyForward, ih, State.writeBytes, State.withMem]
@[simp] theorem State.copyForward_din (s : State) (off op n : Nat) : (s.copyForward off op n).din = s.din := by
  induction n generalizing s op with
  | zero => rfl
  | succ n ih => simp [State.copyForward, ih, State.writeBytes, State.withMem]
@[simp] theorem State.copyForward_host (s : State) (off op n : Nat) : (s.copyForward off op n).host = s.host := by
  induction n generalizing s op with
  | zero => rfl
  | succ n ih => simp [State.copyForward, ih]
@[simp] theorem State.copyForward_bus (s : State) (off op n : Nat) : (s.copyForward off op n).bus = s.bus := by
  induction n generalizing s op with
  | zero => rfl
  | succ n ih => simp [State.copyForward, ih]
@[simp] theorem State.copyForward_serial (s : State) (off op n : Nat) : (s.copyForward off op n).serial = s.serial := by
  induction n generalizing s op with
  | zero => rfl
  | succ n ih => simp [State.copyForward, ih]
@[simp] theorem State.copyForward_gen (s : State) (off op n : Nat) : (s.copyForward off op n).gen = s.gen := by
  induction n generalizing s op with
  | zero => rfl
  | succ n ih => simp [State.copyForward, ih]

theorem State.copyForward_memOf_ne (s : State) {sp : Space} (h : sp ≠ .dout) (off op n : Nat) :
    (s.copyForward off op n).memOf sp = s.memOf sp := by
  cases sp <;> simp [State.memOf] at h ⊢

/-- The forward copy writes `[op, op + n)` of `DOUT` and nothing else. -/
theorem State.copyForward_readByte_out (s : State) (off op n x : Nat) (h : x < op ∨ op + n ≤ x) :
    (s.copyForward off op n).readByte .dout x = s.readByte .dout x := by
  induction n generalizing s op with
  | zero => rfl
  | succ n ih =>
    rw [State.copyForward, ih _ _ (by omega), State.readByte_writeBytes_same, dif_neg (by simp; omega)]

theorem State.copyForward_readByte_ne (s : State) {sp : Space} (h : sp ≠ .dout) (off op n x : Nat) :
    (s.copyForward off op n).readByte sp x = s.readByte sp x :=
  State.readByte_congr (State.copyForward_memOf_ne s h off op n) (by simp) x

theorem State.memoriesWf_copyForward {s : State} (hs : s.memoriesWf) (off : Nat) {op n : Nat}
    (h : op + n ≤ Config.memCap) : (s.copyForward off op n).memoriesWf := by
  induction n generalizing s op with
  | zero => exact hs
  | succ n ih => exact ih (State.memoriesWf_writeBytes hs (by simp; omega)) (by omega)

/-! ### The stream cursor -/

/-- `t` is `s` with the stream cursor moved on: `IP` and the nibble buffer alone differ, `IP` stays in the input, and the
position counted in nibbles (`2*IP`, less one while a nibble is buffered) has not gone back. -/
structure State.MovedTo (s t : State) : Prop where
  same : t = s.withDec { s.dec with ip := t.dec.ip, nibh := t.dec.nibh, nibv := t.dec.nibv }
  within : s.dec.ip ≤ s.dec.dinsz → t.dec.ip ≤ s.dec.dinsz
  forward : 2 * s.dec.ip + t.dec.nibh.toNat ≤ 2 * t.dec.ip + s.dec.nibh.toNat
  up : s.dec.ip ≤ t.dec.ip

theorem State.MovedTo.refl (s : State) : s.MovedTo s := ⟨rfl, id, by omega, by omega⟩

theorem State.MovedTo.dinsz {s t : State} (h : s.MovedTo t) : t.dec.dinsz = s.dec.dinsz := by rw [h.same]; rfl

theorem State.MovedTo.trans {s t u : State} (h : s.MovedTo t) (k : t.MovedTo u) : s.MovedTo u := by
  refine ⟨?_, ?_, ?_, ?_⟩
  · rw [k.same, h.same]; rfl
  · intro hs; have := k.within (by rw [h.dinsz]; exact h.within hs); rwa [h.dinsz] at this
  · have := h.forward; have := k.forward; omega
  · have := h.up; have := k.up; omega

/-- `GetByte` (R272): the byte at `IP`, and `IP` one further; it fails exactly at the end of the input. -/
theorem State.getByte_of_lt {s : State} (h : s.dec.ip < s.dec.dinsz) :
    s.getByte = some (s.readByte .din s.dec.ip, s.withDec { s.dec with ip := s.dec.ip + 1 }) := by
  simp [State.getByte, h]

theorem State.getByte_of_ge {s : State} (h : s.dec.dinsz ≤ s.dec.ip) : s.getByte = none := by
  simp [State.getByte]; omega

theorem State.getByte_eq_some {s t : State} {b : Byte} (h : s.getByte = some (b, t)) :
    s.dec.ip < s.dec.dinsz ∧ b = s.readByte .din s.dec.ip ∧ t = s.withDec { s.dec with ip := s.dec.ip + 1 } := by
  unfold State.getByte at h
  split at h
  · rename_i hlt; simp only [Option.some.injEq, Prod.mk.injEq] at h; exact ⟨hlt, h.1.symm, h.2.symm⟩
  · cases h

/-- A byte fetched moves the cursor on by two nibbles. -/
theorem State.getByte_moved {s t : State} {b : Byte} (h : s.getByte = some (b, t)) :
    s.MovedTo t ∧ 2 * s.dec.ip + t.dec.nibh.toNat < 2 * t.dec.ip + s.dec.nibh.toNat := by
  obtain ⟨hlt, -, rfl⟩ := State.getByte_eq_some h
  refine ⟨⟨rfl, fun _ => ?_, ?_, ?_⟩, ?_⟩ <;> simp
  omega

/-- A nibble fetched moves the cursor on by one nibble (R273). -/
theorem State.getNibble_moved {s t : State} {v : BitVec 4} (h : s.getNibble = some (v, t)) :
    s.MovedTo t ∧ 2 * s.dec.ip + t.dec.nibh.toNat < 2 * t.dec.ip + s.dec.nibh.toNat := by
  unfold State.getNibble at h
  split at h
  · rename_i hn
    simp only [Option.some.injEq, Prod.mk.injEq] at h
    obtain ⟨-, rfl⟩ := h
    refine ⟨⟨rfl, fun h => h, ?_, ?_⟩, ?_⟩ <;> simp [hn]
  · rename_i hn
    split at h
    · rename_i b s1 hb
      simp only [Option.some.injEq, Prod.mk.injEq] at h
      obtain ⟨-, rfl⟩ := h
      obtain ⟨hlt, -, rfl⟩ := State.getByte_eq_some hb
      have hf : s.dec.nibh = false := by simpa using hn
      refine ⟨⟨rfl, fun _ => ?_, ?_, ?_⟩, ?_⟩ <;> simp [hf] <;> omega
    · cases h

/-- A fetched offset field (R284, R285, R295 to R299) moves the cursor on and nothing else; the offset fits 17 bits when
`REP` does. -/
theorem State.fetchOffset_moved {s t : State} {f : OffForm} {off : Nat} (h : s.fetchOffset f = some (off, t)) :
    s.MovedTo t ∧ (s.dec.rep ≤ 65536 → off ≤ 65536) := by
  cases f <;> simp only [State.fetchOffset] at h
  case o8 =>
    split at h
    · rename_i b s1 hb
      simp only [Option.some.injEq, Prod.mk.injEq] at h; obtain ⟨rfl, rfl⟩ := h
      exact ⟨(State.getByte_moved hb).1, fun _ => by unfold offsetOfStored; omega⟩
    · cases h
  case o16 =>
    split at h
    · rename_i b s1 hb
      split at h
      · rename_i b' s2 hb'
        simp only [Option.some.injEq, Prod.mk.injEq] at h; obtain ⟨rfl, rfl⟩ := h
        exact ⟨(State.getByte_moved hb).1.trans (State.getByte_moved hb').1, fun _ => by unfold offsetOfStored; omega⟩
      · cases h
    · cases h
  case off5 z =>
    split at h
    · rename_i b s1 hb
      simp only [Option.some.injEq, Prod.mk.injEq] at h; obtain ⟨rfl, rfl⟩ := h
      exact ⟨(State.getNibble_moved hb).1, fun _ => by unfold offsetOfStored; omega⟩
    · cases h
  case off9 z =>
    split at h
    · rename_i b s1 hb
      simp only [Option.some.injEq, Prod.mk.injEq] at h; obtain ⟨rfl, rfl⟩ := h
      exact ⟨(State.getByte_moved hb).1, fun _ => by unfold offsetOfStored; omega⟩
    · cases h
  case off13 z =>
    split at h
    · rename_i b s1 hb
      split at h
      · rename_i b' s2 hb'
        simp only [Option.some.injEq, Prod.mk.injEq] at h; obtain ⟨rfl, rfl⟩ := h
        exact ⟨(State.getNibble_moved hb).1.trans (State.getByte_moved hb').1, fun _ => by unfold offsetOfStored; omega⟩
      · cases h
    · cases h
  case off16 =>
    split at h
    · rename_i b s1 hb
      split at h
      · rename_i b' s2 hb'
        simp only [Option.some.injEq, Prod.mk.injEq] at h; obtain ⟨rfl, rfl⟩ := h
        exact ⟨(State.getByte_moved hb).1.trans (State.getByte_moved hb').1, fun _ => by unfold offsetOfStored; omega⟩
      · cases h
    · cases h
  case rep =>
    simp only [Option.some.injEq, Prod.mk.injEq] at h; obtain ⟨rfl, rfl⟩ := h
    exact ⟨State.MovedTo.refl s, id⟩

/-! ### The parts of a command -/

/-- The literal copy (R280) succeeds exactly when both checks pass. -/
theorem State.copyLiterals_of_fits {s : State} {n : Nat} (h1 : s.dec.ip + n ≤ s.dec.dinsz)
    (h2 : s.dec.op + n ≤ s.dec.dcap) :
    s.copyLiterals n = some ((s.literalsCopied n).withDec { s.dec with ip := s.dec.ip + n, op := s.dec.op + n }) := by
  simp [State.copyLiterals, State.literalsCopied, Nat.not_lt.mpr h1, Nat.not_lt.mpr h2]

theorem State.copyLiterals_eq_some {s t : State} {n : Nat} (h : s.copyLiterals n = some t) :
    s.dec.ip + n ≤ s.dec.dinsz ∧ s.dec.op + n ≤ s.dec.dcap ∧
      t = (s.literalsCopied n).withDec { s.dec with ip := s.dec.ip + n, op := s.dec.op + n } := by
  unfold State.copyLiterals at h
  split at h
  · cases h
  · split at h
    · cases h
    · simp only [Option.some.injEq] at h
      exact ⟨by omega, by omega, h.symm⟩

/-- The match part (R307 to R309) when its three checks pass. -/
theorem State.matchPart_of_fits {s : State} {len : Nat} (h1 : 1 ≤ s.dec.moff) (h2 : s.dec.moff ≤ s.dec.op)
    (h3 : s.dec.op + len ≤ s.dec.dcap) :
    s.matchPart len = (s.copyForward s.dec.moff s.dec.op len).withDec
      { s.dec with op := s.dec.op + len, rep := s.dec.moff, expect := tokenFormat s.dec.dfmt } := by
  simp [State.matchPart, Nat.not_lt.mpr h2, Nat.not_lt.mpr h3]; omega

/-- The match part ends with `FORMAT_ERROR` when one of its checks fails (R307). -/
theorem State.matchPart_of_misfit {s : State} {len : Nat}
    (h : s.dec.moff < 1 ∨ s.dec.op < s.dec.moff ∨ s.dec.dcap < s.dec.op + len) : s.matchPart len = s.formatError := by
  unfold State.matchPart
  split
  · rfl
  · split
    · rfl
    · split
      · rfl
      · omega

/-- The offset part (R274) when the offset field is truncated (R272). -/
theorem State.offsetPart_of_none {s : State} (h : s.fetchOffset s.dec.tokForm = none) :
    s.offsetPart = s.formatError := by
  simp [State.offsetPart, h]

/-- The offset part (R274) once the offset is fetched: a match of the inline length, or the wait for a match extension. -/
theorem State.offsetPart_of_some {s t : State} {off : Nat} (h : s.fetchOffset s.dec.tokForm = some (off, t)) :
    s.offsetPart =
      match t.dec.tokForm.inlineMatch t.dec.tokM with
      | some len => (t.withDec { t.dec with moff := off }).matchPart len
      | none => (t.withDec { t.dec with moff := off }).expecting t.dec.tokForm.matchExt := by
  unfold State.offsetPart
  rw [h]
  rfl

/-- The literal part (R280) when one of its two checks fails. -/
theorem State.literalPart_of_misfit {s : State} {n : Nat}
    (h : s.dec.dinsz < s.dec.ip + n ∨ s.dec.dcap < s.dec.op + n) : s.literalPart n = s.formatError := by
  unfold State.literalPart State.copyLiterals
  split
  · rfl
  · rename_i s1 hs
    split at hs
    · cases hs
    · split at hs
      · cases hs
      · omega

/-- The literal part when its checks pass: the stream ends (R275), or the offset part follows. -/
theorem State.literalPart_of_fits {s : State} {n : Nat} (h1 : s.dec.ip + n ≤ s.dec.dinsz)
    (h2 : s.dec.op + n ≤ s.dec.dcap) :
    s.literalPart n =
      if s.dec.ip + n = s.dec.dinsz then
        ((s.literalsCopied n).withDec { s.dec with ip := s.dec.ip + n, op := s.dec.op + n }).streamEnd
      else ((s.literalsCopied n).withDec { s.dec with ip := s.dec.ip + n, op := s.dec.op + n }).offsetPart := by
  rw [State.literalPart, State.copyLiterals_of_fits h1 h2]
  rfl

/-- The EOD marker (R306) ends with success exactly in a raw block with no byte left. -/
theorem State.endOfData_eq (s : State) :
    s.endOfData = if s.dec.draw = true ∧ s.dec.ip = s.dec.dinsz then s.expandDone else s.formatError := by
  unfold State.endOfData
  cases s.dec.draw <;> by_cases h : s.dec.ip = s.dec.dinsz <;> simp [h]

end Sys2Proof.Machine
end

