-- ==== Sys2Proof/Tests/Slice0.lean ====
section
/-! SUPPORT. Tests: ill-formed terms, words written out from 30_encoding.md, one small step per instruction with results
taken from 95_test_vectors.md or worked out by hand, and a witness for the hypotheses of every obligation. -/

namespace Sys2Proof.Tests

open Sys2Proof Sys2Proof.Machine

/-! ### Helpers -/

/-- A predicate of the next state; false where the step stops. -/
def after (o : Host.Outcome State Fault Refusal) (p : State → Bool) : Bool :=
  match o with
  | .next t => p t
  | .fault _ => false
  | .refused _ => false

/-- The bytes of a text of small letters, given by their places in the alphabet (a = 1). -/
def letters (l : List Nat) : List Byte := l.map (fun n => BitVec.ofNat 8 (96 + n))

/-- An idle machine with a context and bytes in `WIN`. -/
def context (fmt : BitVec 2) (mm : Nat) (raw : Bool) (w : List Byte) : State :=
  { State.reset with
    win := Memory.cellsAt 0 w,
    ctx := { valid := true, maxwin := 1024, minmatch := mm, fmt := fmt, favor := true, raw := raw, cmdcount := 7#32 } }

/-- A running decoder at byte `ip` of the stream `din`, with `hist` already in `DOUT`. -/
def running (fmt : BitVec 2) (expect : Format) (raw : Bool) (din hist : List Byte) (ip cap : Nat) : State :=
  { State.reset with
    busy := true, din := Memory.cellsAt 0 din, dout := Memory.cellsAt 0 hist,
    dec := { Dec.reset with
      ip := ip, op := hist.length, dfmt := fmt, draw := raw, dinsz := din.length, dcap := cap, expect := expect } }

/-- The host's operands. -/
def args (s : State) (a0 a1 a2 a3 a4 : Nat) : State :=
  { s with
    arg0 := BitVec.ofNat 32 a0, arg1 := BitVec.ofNat 32 a1, arg2 := BitVec.ofNat 32 a2, arg3 := BitVec.ofNat 32 a3,
    arg4 := BitVec.ofNat 32 a4 }

/-- Checks of a decoder state after a step: cursors, `REP`, and the bytes in `DOUT`. -/
def decoded (ip op rep : Nat) (out : List Byte) (t : State) : Bool :=
  t.busy && decide (t.dec.ip = ip) && decide (t.dec.op = op) && decide (t.dec.rep = rep) &&
    decide (t.readBytes .dout 0 out.length = out)

/-! ### WellFormed smoke: every range check refuses a term just outside its range -/

theorem test_wf_v1Litx8 : (Instr.v1Litx8 249#8).wf = false ∧ (Instr.v1Litx8 248#8).wf = true := by decide
theorem test_wf_v1Mlx8 : (Instr.v1Mlx8 238#8).wf = false ∧ (Instr.v1Mlx8 237#8).wf = true := by decide
theorem test_wf_v1Mlx16 : (Instr.v1Mlx16 0#16).wf = false ∧ (Instr.v1Mlx16 1#16).wf = true := by decide
theorem test_wf_v2Litxn : (Instr.v2Litxn 15#4).wf = false ∧ (Instr.v2Litxn 14#4).wf = true := by decide
theorem test_wf_v2Litx8 : (Instr.v2Litx8 238#8).wf = false ∧ (Instr.v2Litx8 237#8).wf = true := by decide
theorem test_wf_v2Mlxn : (Instr.v2Mlxn 15#4).wf = false ∧ (Instr.v2Mlxn 14#4).wf = true := by decide
theorem test_wf_v2Mlx8 : (Instr.v2Mlx8 232#8).wf = false ∧ (Instr.v2Mlx8 231#8).wf = true := by decide

/-! ### Decode: a word of every constructor, written out from the tables of 30_encoding.md -/

theorem test_decode_commands :
    decode .cmdw [0x01#8, 0x00#8, 0x00#8, 0x00#8] = .instr .init 4 ∧
    decode .cmdw [0xF2#8, 0xFF#8, 0x00#8, 0x80#8] = .instr .destroy 4 ∧
    decode .cmdw [0x03#8, 0x00#8, 0x00#8, 0x00#8] = .instr .shrink 4 ∧
    decode .cmdw [0x04#8, 0x00#8, 0x00#8, 0x00#8] = .instr .getcount 4 ∧
    decode .cmdw [0x05#8, 0x00#8, 0x00#8, 0x00#8] = .instr .expand 4 ∧
    decode .cmdw [0x00#8, 0x01#8, 0x00#8, 0x00#8] = .rejected .reservedOpcode ∧
    decode .cmdw [0x06#8, 0x00#8, 0x00#8, 0x00#8] = .rejected .reservedOpcode := by decide

/-- `0 010 0101` and `1 010 0101` (R98). -/
theorem test_decode_v1tok :
    decode .v1tok [0x25#8] = .instr (.v1Cmd8 2#3 5#4) 1 ∧ decode .v1tok [0xA5#8] = .instr (.v1Cmd16 2#3 5#4) 1 := by
  decide

theorem test_decode_v1litx :
    decode .v1litx [248#8] = .instr (.v1Litx8 248#8) 1 ∧ decode .v1litx [250#8, 7#8] = .instr (.v1Litx9 7#8) 2 ∧
    decode .v1litx [249#8, 0x05#8, 0x01#8] = .instr (.v1Litx16 0x0105#16) 3 ∧
    decode .v1litx [251#8] = .rejected .reservedLiteralExtension ∧ decode .v1litx [250#8] = .rejected .truncated := by
  decide

theorem test_decode_v1mlx :
    decode .v1mlx [237#8] = .instr (.v1Mlx8 237#8) 1 ∧ decode .v1mlx [239#8, 0x2B#8] = .instr (.v1Mlx9 0x2B#8) 2 ∧
    decode .v1mlx [238#8, 0x57#8, 0x02#8] = .instr (.v1Mlx16 599#16) 3 ∧
    decode .v1mlx [238#8, 0x00#8, 0x00#8] = .instr .v1Eod 3 ∧
    decode .v1mlx [240#8] = .rejected .reservedMatchExtension := by
  decide

/-- `001 10 110`, `011 01 001`, `101 01 001`, `110 01 001`, `111 00 010` (R106). -/
theorem test_decode_v2tok :
    decode .v2tok [0x36#8] = .instr (.v2Off5 1#1 2#2 6#3) 1 ∧ decode .v2tok [0x69#8] = .instr (.v2Off9 1#1 1#2 1#3) 1 ∧
    decode .v2tok [0xA9#8] = .instr (.v2Off13 1#1 1#2 1#3) 1 ∧ decode .v2tok [0xC9#8] = .instr (.v2Off16 1#2 1#3) 1 ∧
    decode .v2tok [0xE2#8] = .instr (.v2Rep 0#2 2#3) 1 := by
  decide

theorem test_decode_v2litx :
    decode .v2litxn [14#8] = .instr (.v2Litxn 14#4) 1 ∧ decode .v2litxn [15#8] = .escape .v2litxb ∧
    decode .v2litxb [237#8] = .instr (.v2Litx8 237#8) 1 ∧
    decode .v2litxb [239#8, 0x02#8, 0x00#8] = .instr (.v2Litx16 2#16) 3 ∧
    decode .v2litxb [238#8] = .rejected .reservedLiteralExtension := by
  decide

theorem test_decode_v2mlx :
    decode .v2mlxn [14#8] = .instr (.v2Mlxn 14#4) 1 ∧ decode .v2mlxn [15#8] = .escape .v2mlxb ∧
    decode .v2mlxb [231#8] = .instr (.v2Mlx8 231#8) 1 ∧ decode .v2mlxb [232#8] = .instr .v2Eod 1 ∧
    decode .v2mlxb [233#8, 0x57#8, 0x02#8] = .instr (.v2Mlx16 599#16) 3 ∧
    decode .v2mlxb [234#8] = .rejected .reservedMatchExtension := by
  decide

/-! ### One step of each instruction -/

/-- R335: `INIT 65536, 0, 2, FAVOR` gives minimum match size 2 and `STATUS = 0x0A`. -/
theorem test_init :
    after (exec .init (args State.reset 65536 0 2 1 0)) (fun t =>
      decide (t.ctx = {
        valid := true, maxwin := 65536, minmatch := 2, fmt := 2#2, favor := true, raw := false, cmdcount := 0#32 }) && decide (t.statusWord = 0x0A#32)) = true := by decide

/-- R335: `INIT 200000, 3, 1, 0` ends with `ALLOC`, `STATUS = 0x06`. -/
theorem test_init_alloc :
    after (exec .init (args State.reset 200000 3 1 0 0)) (fun t =>
      decide (t.errcode = .alloc) && decide (t.statusWord = 0x06#32) && decide (t.result = 0xFFFFFFFF#32)) = true := by
  decide

/-- R340: the context and its count are gone. -/
theorem test_destroy :
    after (exec .destroy (context 1#2 3 false [])) (fun t =>
      t.done && !t.ctx.valid && decide (t.ctx.cmdcount = 0#32) && decide (t.result = 0#32)) = true := by decide

/-- R352: the count of the context; without a context `BAD_ARG`. -/
theorem test_getcount :
    after (exec .getcount (context 1#2 3 false [])) (fun t => decide (t.result = 7#32) && !t.err) = true ∧
    after (exec .getcount State.reset) (fun t => decide (t.errcode = .badArg)) = true := by decide

/-- E2 of 95_test_vectors.md, V1: four equal bytes `41` give `10 41 FF 00`, two Tokens. -/
theorem test_shrink_v1 :
    after (exec .shrink (args (context 1#2 3 false [0x41#8, 0x41#8, 0x41#8, 0x41#8]) 0 4 64 0 0)) (fun t =>
      decide (t.result = 4#32) && decide (t.readBytes .cout 0 4 = [0x10#8, 0x41#8, 0xFF#8, 0x00#8]) &&
        decide (t.ctx.cmdcount = 2#32)) = true := by decide

/-- E6 of 95_test_vectors.md, V2: `abcabcabc` gives `1C 0E 61 62 63 00`. -/
theorem test_shrink_v2 :
    after (exec .shrink (args (context 2#2 2 false (letters [1, 2, 3, 1, 2, 3, 1, 2, 3])) 0 9 64 0 0)) (fun t =>
      decide (t.result = 6#32) &&
        decide (t.readBytes .cout 0 6 = [0x1C#8, 0x0E#8, 0x61#8, 0x62#8, 0x63#8, 0x00#8])) = true := by decide

/-- R271: `EXPAND 2, RAW, 5, 3, 10` sets the decoder up. -/
theorem test_expand :
    after (exec .expand ({ (args State.reset 2 2 5 3 10) with busy := true } : State)) (fun t =>
      t.busy && decide (t.dec = { Dec.reset with
        op := 3, dfmt := 2#2, draw := true, dinsz := 5, doff := 3, dcap := 10, expect := .v2tok })) = true := by decide

/-- R356: `EXPAND 3, 0, 5, 0, 10` ends with `BAD_ARG`. -/
theorem test_expand_version :
    after (exec .expand (args State.reset 3 0 5 0 10)) (fun t => decide (t.errcode = .badArg)) = true := by decide

/-- B4: `25 41 42 FE 00`: two literals, then eight bytes from two back. -/
theorem test_v1Cmd8 :
    after (step (running 1#2 .v1tok false [0x25#8, 0x41#8, 0x42#8, 0xFE#8, 0x00#8] [] 0 10))
      (decoded 4 10 2 [0x41#8, 0x42#8, 0x41#8, 0x42#8, 0x41#8, 0x42#8, 0x41#8, 0x42#8, 0x41#8, 0x42#8]) = true := by decide

/-- B24: offset byte 00 is offset 256, more than was produced. -/
theorem test_v1Cmd8_far :
    after (step (running 1#2 .v1tok false [0x25#8, 0x41#8, 0x42#8, 0x00#8, 0x00#8] [] 0 64))
      (fun t => decide (t.errcode = .formatError) && !t.busy) = true := by decide

/-- B7: `A5 41 42 FE FF 00`: the offset field is two bytes, low first. -/
theorem test_v1Cmd16 :
    after (step (running 1#2 .v1tok false [0xA5#8, 0x41#8, 0x42#8, 0xFE#8, 0xFF#8, 0x00#8] [] 0 10))
      (decoded 5 10 2 [0x41#8, 0x42#8, 0x41#8, 0x42#8]) = true := by decide

/-- B8: `70 00` and seven literals end a framed block. -/
theorem test_v1Litx8 :
    after (step (running 1#2 .v1litx false
      [0x70#8, 0x00#8, 0x41#8, 0x42#8, 0x43#8, 0x44#8, 0x45#8, 0x46#8, 0x47#8] [] 1 64))
      (fun t => decide (t.result = 7#32) && !t.busy && !t.err) = true := by decide

/-- R282: `FA 00` is a run of 256, more than is left. -/
theorem test_v1Litx9 :
    after (step (running 1#2 .v1litx false [0x70#8, 0xFA#8, 0x00#8, 0x41#8] [] 1 64))
      (fun t => decide (t.errcode = .formatError) && decide (t.result = 0xFFFFFFFF#32)) = true := by decide

/-- B9: `70 F9 05 00` and five literals. -/
theorem test_v1Litx16 :
    after (step (running 1#2 .v1litx false
      [0x70#8, 0xF9#8, 0x05#8, 0x00#8, 0x41#8, 0x42#8, 0x43#8, 0x44#8, 0x45#8] [] 1 64))
      (fun t => decide (t.result = 5#32) && decide (t.readBytes .dout 4 1 = [0x45#8])) = true := by decide

/-- A running decoder that waits for a match extension, offset 1 held, one byte `5A` produced. -/
def atMatch (fmt : BitVec 2) (expect : Format) (raw : Bool) (din : List Byte) (cap : Nat) : State :=
  let s := running fmt expect raw din [0x5A#8] 0 cap
  s.withDec { s.dec with moff := 1 }

/-- R287: byte 02 is a match of 20. -/
theorem test_v1Mlx8 :
    after (step (atMatch 1#2 .v1mlx false [0x02#8, 0x00#8] 21)) (decoded 1 21 1 (List.replicate 21 0x5A#8)) = true := by
  decide

/-- R288: `EF 00` is a match of 256, which does not fit 64 bytes. -/
theorem test_v1Mlx9 :
    after (step (atMatch 1#2 .v1mlx false [0xEF#8, 0x00#8] 64)) (fun t => decide (t.errcode = .formatError)) = true := by
  decide

/-- R289, B12: `EE 02 00` is a match of 2. -/
theorem test_v1Mlx16 :
    after (step (atMatch 1#2 .v1mlx false [0xEE#8, 0x02#8, 0x00#8] 64)) (decoded 3 3 1 [0x5A#8, 0x5A#8, 0x5A#8]) = true := by
  decide

/-- R306, B15, B28: `EE 00 00` ends a raw block, and is an error in a framed one. -/
theorem test_v1Eod :
    after (step (atMatch 1#2 .v1mlx true [0xEE#8, 0x00#8, 0x00#8] 64)) (fun t => decide (t.result = 1#32) && !t.err) = true ∧
    after (step (atMatch 1#2 .v1mlx false [0xEE#8, 0x00#8, 0x00#8] 64)) (fun t => decide (t.errcode = .formatError)) = true
    := by decide

/-- R313: `36 41 42 F0 00`: offset 2, eight bytes, and the low nibble of `F0` is buffered. -/
theorem test_v2Off5 :
    after (step (running 2#2 .v2tok false [0x36#8, 0x41#8, 0x42#8, 0xF0#8, 0x00#8] [] 0 10)) (fun t =>
      decoded 4 10 2 [0x41#8, 0x42#8, 0x41#8, 0x42#8] t && t.dec.nibh && decide (t.dec.nibv = 0#4)) = true := by decide

/-- R290, R297: with `Z = 0`, so `z = 1`, byte `FE` is offset 2; with `Z = 1` it is 258. -/
theorem test_v2Off9 :
    after (step (running 2#2 .v2tok false [0x50#8, 0x41#8, 0x42#8, 0xFE#8, 0x00#8] [] 0 10))
      (decoded 4 4 2 [0x41#8, 0x42#8, 0x41#8, 0x42#8]) = true ∧
    after (step (running 2#2 .v2tok false [0x70#8, 0x41#8, 0x42#8, 0xFE#8, 0x00#8] [] 0 10))
      (fun t => decide (t.errcode = .formatError)) = true := by decide

/-- R298: nibble 15, `Z = 1`, byte `FF` is the least offset of the form, 8704 - 7680 - 255 = 769, which is too far here
(B83). -/
theorem test_v2Off13 :
    after (step (running 2#2 .v2tok false [0xA8#8, 0x41#8, 0xF0#8, 0xFF#8, 0x00#8] [] 0 64))
      (fun t => decide (t.errcode = .formatError)) = true ∧
    (running 2#2 .v2tok false [0xF0#8, 0xFF#8] [] 0 64).fetchOffset (.off13 1#1) =
      some (769, (running 2#2 .v2tok false [0xF0#8, 0xFF#8] [] 0 64).withDec
        { (running 2#2 .v2tok false [0xF0#8, 0xFF#8] [] 0 64).dec with ip := 2, nibh := true }) := by decide

/-- B54: `C8 41 FF FF 00`: the offset field is two bytes, high first. -/
theorem test_v2Off16 :
    after (step (running 2#2 .v2tok false [0xC8#8, 0x41#8, 0xFF#8, 0xFF#8, 0x00#8] [] 0 64))
      (decoded 4 3 1 [0x41#8, 0x41#8, 0x41#8]) = true := by decide

/-- R296: the offset is `REP`; 0 is an error (B72). -/
theorem test_v2Rep :
    after (step { running 2#2 .v2tok false [0xE2#8, 0x00#8] (letters [1, 2, 3]) 0 64 with
      dec := { (running 2#2 .v2tok false [0xE2#8, 0x00#8] (letters [1, 2, 3]) 0 64).dec with rep := 3 } })
      (decoded 1 7 3 (letters [1, 2, 3, 1, 2, 3, 1])) = true ∧
    after (step (running 2#2 .v2tok false [0xE2#8, 0x00#8] (letters [1, 2, 3]) 0 64))
      (fun t => decide (t.errcode = .formatError)) = true := by decide

/-- B45: nibble 0 is three literals. -/
theorem test_v2Litxn :
    after (step (running 2#2 .v2litxn false [0x18#8, 0x00#8, 0x41#8, 0x42#8, 0x43#8] [] 1 64))
      (fun t => decide (t.result = 3#32) && decide (t.readBytes .dout 0 3 = [0x41#8, 0x42#8, 0x43#8])) = true := by decide

/-- B46: byte 00 is eighteen literals. -/
theorem test_v2Litx8 :
    after (step (running 2#2 .v2litxb false (0x00#8 :: List.replicate 18 0x41#8) [] 0 64))
      (fun t => decide (t.result = 18#32)) = true := by decide

/-- B47: `EF 02 00` is two literals. -/
theorem test_v2Litx16 :
    after (step (running 2#2 .v2litxb false [0xEF#8, 0x02#8, 0x00#8, 0x41#8, 0x42#8] [] 0 64))
      (fun t => decide (t.result = 2#32)) = true := by decide

/-- R301: the buffered nibble 1 is a match of 10, and no byte is consumed. -/
theorem test_v2Mlxn :
    after (step { atMatch 2#2 .v2mlxn false [0x00#8] 64 with
      dec := { (atMatch 2#2 .v2mlxn false [0x00#8] 64).dec with nibh := true, nibv := 1#4 } })
      (decoded 0 11 1 (List.replicate 11 0x5A#8)) = true := by decide

/-- R302: byte 00 is a match of 24. -/
theorem test_v2Mlx8 :
    after (step (atMatch 2#2 .v2mlxb false [0x00#8, 0x00#8] 64)) (decoded 1 25 1 (List.replicate 25 0x5A#8)) = true := by
  decide

/-- R304, R306: byte E8 ends a raw block, with no byte left. -/
theorem test_v2Eod :
    after (step (atMatch 2#2 .v2mlxb true [0xE8#8] 64)) (fun t => decide (t.result = 1#32) && !t.err) = true ∧
    after (step (atMatch 2#2 .v2mlxb true [0xE8#8, 0x00#8] 64)) (fun t => decide (t.errcode = .formatError)) = true := by
  decide

/-- B52, B76: `E9 01 00` is a match of 1; the length 0 is an error. -/
theorem test_v2Mlx16 :
    after (step (atMatch 2#2 .v2mlxb false [0xE9#8, 0x01#8, 0x00#8] 64)) (decoded 3 2 1 [0x5A#8, 0x5A#8]) = true ∧
    after (step (atMatch 2#2 .v2mlxb false [0xE9#8, 0x00#8, 0x00#8] 64)) (fun t => decide (t.errcode = .formatError)) = true
    := by decide

/-! ### Table words, and the first instruction after reset (log 5) -/

theorem test_decodeTableWord :
    decodeTableWord 32 5 = some .expand ∧ decodeTableWord 8 0x36 = some (.v2Off5 1#1 2#2 6#3) ∧
    decodeTableWord 8 0xFA = some (.v1Litx9 0#8) ∧ decodeTableWord 8 0xE8 = some .v2Eod ∧
    decodeTableWord 4 2 = some (.v2Litxn 2#4) ∧ decodeTableWord 32 6 = none := by decide

/-- The placed word is the instruction that the very next step runs: a command, a token that waits, and a nibble. -/
theorem test_withFetchWord :
    after (step (State.reset.withFetchWord 32 4)) (fun t => decide (t.errcode = .badArg) && t.done) = true ∧
    after (step (State.reset.withFetchWord 8 0xF8)) (fun t => decide (t.dec.expect = .v2litxn) && decide (t.dec.ip = 1)) =
      true ∧
    after (step (State.reset.withFetchWord 4 1)) (fun t => decide (t.errcode = .formatError)) = true := by decide

/-! ### Worked examples of the compressor -/

/-- I1 of 95_test_vectors.md, `banana`. -/
theorem test_index_banana :
    (Work.reset.buildIndex (letters [2, 1, 14, 1, 14, 1])).sa = [5, 3, 1, 0, 4, 2] ∧
    (Work.reset.buildIndex (letters [2, 1, 14, 1, 14, 1])).lcp = [0, 1, 3, 0, 0, 2] ∧
    (Work.reset.buildIndex (letters [2, 1, 14, 1, 14, 1])).ivl = [⟨3, 1, 2⟩, ⟨1, 0, 2⟩, ⟨2, 4, 5⟩, ⟨0, 0, 5⟩] := by
  decide

/-- M3 of 95_test_vectors.md, `abaaabaaa`. -/
theorem test_candidates :
    findMatches 2 0 (letters [1, 2, 1, 1, 1, 2, 1, 1, 1]) =
      [[], [], [], [⟨2, 1⟩], [⟨5, 4⟩], [⟨4, 4⟩], [⟨3, 4⟩, ⟨2, 3⟩], [⟨2, 1⟩], []] := by decide

/-- O2 of 95_test_vectors.md: the slots of the same window. -/
theorem test_repSlots :
    (repPassFrom 0 [0, 0, 0, 0] 0 (findMatches 2 0 (letters [1, 2, 1, 1, 1, 2, 1, 1, 1]))).ro.map
      (fun l => l.map (fun a => a.slotCode)) = [[], [], [], [4], [4], [4], [0, 4], [1], []] := by decide

/-- T3 of 95_test_vectors.md: `COST_TOTAL` 47 and the Tokens. -/
theorem test_parse :
    (compress (context 2#2 2 false []).ctx Work.reset (letters [1, 2, 1, 1, 1, 2, 1, 1, 1]) 0).1.costL =
      [some 47, some 39, some 31, some 23, some 23, some 19, some 22, some 16, some 8] ∧
    (compress (context 2#2 2 false []).ctx Work.reset (letters [1, 2, 1, 1, 1, 2, 1, 1, 1]) 0).1.tok =
      [.lit 0 4, .mtch 4 5 false] := by decide

/-! ### Witnesses: concrete states and operands that meet the hypotheses of the obligations, one for each clause -/

/-- An idle machine whose host has the accesses `l` to come. -/
def hosted (l : List HostAct) : State := { State.reset with host := l }

/-- A busy machine whose host has the accesses `l` to come. -/
def hostedBusy (l : List HostAct) : State := { State.reset with host := l, busy := true }

theorem witness_DecodeOfEncode : (Instr.v2Litx8 237#8).WellFormed ∧ (Instr.v1Mlx16 1#16).WellFormed := by decide

theorem witness_EncodeOfDecode :
    decode .v1mlx [238#8, 1#8, 0#8, 9#8] = .instr (.v1Mlx16 1#16) 3 ∧ Format.v1mlx ≠ Format.cmdw ∧
    Format.v1mlx.isNibble = false := by decide

theorem witness_StepRunsTheCommand :
    (hosted [.writeReg 0x00 0xFFFFFFF3#32]).hostTurnNext (.writeReg 0x00 0xFFFFFFF3#32) [] ∧
    (hosted [.writeReg 0x00 0xFFFFFFF3#32]).busy = false ∧
    decode .cmdw (bytesOfWord 0xFFFFFFF3#32) = .instr .shrink 4 := ⟨rfl, rfl, by decide⟩

theorem witness_StepRunsTheStreamInstruction :
    (running 1#2 .v1tok false [0x10#8, 0x5A#8] [] 0 64).engineTurnNext ∧
    (running 1#2 .v1tok false [0x10#8, 0x5A#8] [] 0 64).dec.expect.isNibble = false ∧
    ¬ (tokenExpected (running 1#2 .v1tok false [0x10#8, 0x5A#8] [] 0 64).dec.expect = true ∧
      (running 1#2 .v1tok false [0x10#8, 0x5A#8] [] 0 64).dec.ip =
        (running 1#2 .v1tok false [0x10#8, 0x5A#8] [] 0 64).dec.dinsz) ∧
    decode .v1tok ((running 1#2 .v1tok false [0x10#8, 0x5A#8] [] 0 64).streamBytes 3) = .instr (.v1Cmd8 1#3 0#4) 1 :=
  ⟨⟨rfl, .inl rfl⟩, rfl, by decide, by decide⟩

/-- The nibbles 14, 0 and 15, in both nibble formats, from a byte and from the buffer. -/
theorem witness_StepRunsTheNibbleForm :
    (running 2#2 .v2litxn false [0xE0#8] [] 0 64).engineTurnNext ∧ Format.v2litxn.isNibble = true ∧
    wireNibble (running 2#2 .v2litxn false [0xE0#8] [] 0 64) 0 = some (14, 1, true, 0#4) ∧
    wireNibble (running 2#2 .v2mlxn false [0x0F#8] [] 0 64) 0 = some (0, 1, true, 15#4) ∧
    wireNibble (running 2#2 .v2litxn false [0xF0#8] [] 0 64) 0 = some (15, 1, true, 0#4) ∧
    wireNibble { running 2#2 .v2mlxn false [] [] 0 64 with
      dec := { (running 2#2 .v2mlxn false [] [] 0 64).dec with nibh := true, nibv := 15#4 } } 0 = some (15, 0, false, 15#4)
    := ⟨⟨rfl, .inl rfl⟩, rfl, by decide⟩

/-- Both endings, framed and raw. -/
theorem witness_StreamEndBetweenCommands :
    (running 1#2 .v1tok false [0x00#8] [] 1 64).engineTurnNext ∧
    (running 1#2 .v1tok false [0x00#8] [] 1 64).dec.ip = (running 1#2 .v1tok false [0x00#8] [] 1 64).dec.dinsz ∧
    (running 1#2 .v1tok false [0x00#8] [] 1 64).dec.draw = false ∧
    (running 2#2 .v2tok true [] [] 0 64).engineTurnNext ∧
    (running 2#2 .v2tok true [] [] 0 64).dec.ip = (running 2#2 .v2tok true [] [] 0 64).dec.dinsz ∧
    (running 2#2 .v2tok true [] [] 0 64).dec.draw = true :=
  ⟨⟨rfl, .inl rfl⟩, rfl, rfl, ⟨rfl, .inl rfl⟩, rfl, rfl⟩

/-- The least reserved byte of a literal extension, and a nibble wanted at the end of the input. -/
theorem witness_BadFieldEndsWithFormatError :
    (running 1#2 .v1litx false [0xFB#8] [] 0 64).engineTurnNext ∧
    (running 1#2 .v1litx false [0xFB#8] [] 0 64).dec.doff ≤ (running 1#2 .v1litx false [0xFB#8] [] 0 64).dec.op ∧
    decode .v1litx ((running 1#2 .v1litx false [0xFB#8] [] 0 64).streamBytes 3) = .rejected .reservedLiteralExtension ∧
    (running 2#2 .v2litxn false [] [] 0 64).engineTurnNext ∧ Format.v2litxn.isNibble = true ∧
    wireNibble (running 2#2 .v2litxn false [] [] 0 64) 0 = none :=
  ⟨⟨rfl, .inl rfl⟩, by decide, by decide, ⟨rfl, .inl rfl⟩, rfl, by decide⟩

/-- A running decoder that meets the invariant. -/
theorem running_inv : (running 1#2 .v1tok false [0x10#8, 0x5A#8] [] 0 64).Inv where
  memories := fun sp => by cases sp <;> decide
  decoder := fun _ => by unfold Dec.inRange; decide
  cleared := fun _ => by decide
  flag := by decide
  minusOne := by decide
  context := by unfold Ctx.legal; decide

theorem witness_StepKeepsInvariant :
    ∃ s t : State, s.Inv ∧ s.busy = true ∧ step s = .next t := ⟨_, _, running_inv, rfl, rfl⟩

theorem witness_ResetEventClears : (hostedBusy [.reset]).hostTurnNext .reset [] := rfl

theorem witness_IdleEngineStays : State.reset.busy = false ∧ State.reset.host = [] := ⟨rfl, rfl⟩

theorem witness_ExpandTerminates : ∃ s : State, s.Inv ∧ s.busy = true ∧ s.host = [] := ⟨_, running_inv, rfl, rfl⟩

/-- The largest legal operands, with each format version. -/
theorem witness_InitCompletes :
    ((args State.reset 131072 255 2 3 0).arg2 = 1#32 ∨ (args State.reset 131072 255 2 3 0).arg2 = 2#32) ∧
    (args State.reset 131072 255 2 3 0).arg3.toNat < 4 ∧ (args State.reset 131072 255 2 3 0).arg1.toNat ≤ 255 ∧
    (args State.reset 131072 255 2 3 0).arg0.toNat ≤ 131072 ∧ (args State.reset 0 0 1 0 0).arg2 = 1#32 := by decide

/-- One operand just outside its range: the version, the flags, the minimum match size, and the window. -/
theorem witness_InitRejectsOperands :
    (args State.reset 8 3 3 0 0).arg2 ≠ 1#32 ∧ (args State.reset 8 3 3 0 0).arg2 ≠ 2#32 ∧
    ¬ (args State.reset 8 3 1 4 0).arg3.toNat < 4 ∧ ¬ (args State.reset 8 256 1 0 0).arg1.toNat ≤ 255 ∧
    131072 < (args State.reset 131073 3 1 0 0).arg0.toNat ∧ (args State.reset 131073 3 1 0 0).arg2 = 1#32 := by decide

theorem witness_GetcountCompletes :
    (context 1#2 3 false []).ctx.valid = true ∧ State.reset.ctx.valid = false := by decide

/-- Twelve equal bytes, one of them history, in a V1 context: raw, the block is `08 FF 0F 00 EE 00 00`, seven bytes. -/
def shrinkState (raw : Bool) (cap : Nat) : State :=
  args (context 1#2 3 raw (List.replicate 12 0x41#8)) 1 11 cap 0 0

/-- A raw block that compresses, with exactly the capacity it needs: one match of 11 bytes and the EOD command. -/
theorem witness_ShrinkCompletes :
    (shrinkState true 7).ctx.valid = true ∧
    (shrinkState true 7).arg0.toNat + (shrinkState true 7).arg1.toNat ≤ (shrinkState true 7).ctx.maxwin ∧
    (compress (shrinkState true 7).ctx (shrinkState true 7).work
      ((shrinkState true 7).readBytes .win 0 12) 1).2.length ≤ (shrinkState true 7).arg2.toNat ∧
    (compress (shrinkState true 7).ctx (shrinkState true 7).work
      ((shrinkState true 7).readBytes .win 0 12) 1).2.length < (shrinkState true 7).arg1.toNat := by decide

/-- Each failing check at its boundary. -/
theorem witness_ShrinkRejectsOperands :
    State.reset.ctx.valid = false ∧ (context 1#2 3 false []).ctx.valid = true ∧
    (context 1#2 3 false []).ctx.maxwin <
      (args (context 1#2 3 false []) 1 1024 0 0 0).arg0.toNat + (args (context 1#2 3 false []) 1 1024 0 0 0).arg1.toNat ∧
    65535 < (args State.reset 0 65536 0 0 0).arg1.toNat ∧ 131072 < (args State.reset 0 65535 131073 0 0).arg2.toNat := by
  decide

/-- An empty history and 65536 bytes in a context of the largest size: the second clause when it is raw, the third when it
is framed; one byte less and a capacity of 131073: the fourth. -/
def largeState (raw : Bool) (size cap : Nat) : State :=
  args { State.reset with ctx := { (context 1#2 3 raw []).ctx with maxwin := 131072 } } 0 size cap 0 0

theorem witness_ShrinkRejectsOperands_large :
    (largeState true 65536 64).ctx.valid = true ∧
    (largeState true 65536 64).arg0.toNat + (largeState true 65536 64).arg1.toNat ≤ (largeState true 65536 64).ctx.maxwin ∧
    (largeState true 65536 64).ctx.raw = true ∧ 65535 < (largeState true 65536 64).arg1.toNat ∧
    (largeState false 65536 64).ctx.raw = false ∧ (largeState false 65535 131073).arg1.toNat ≤ 65535 ∧
    131072 < (largeState false 65535 131073).arg2.toNat := by decide

/-- One byte less than the block needs; and an empty raw block, which cannot be smaller than its input. -/
theorem witness_ShrinkSizeErrors :
    (shrinkState true 6).arg2.toNat <
      (compress (shrinkState true 6).ctx (shrinkState true 6).work ((shrinkState true 6).readBytes .win 0 12) 1).2.length ∧
    (compress (context 1#2 3 true []).ctx Work.reset [] 0).2.length = 5 ∧
    (args (context 1#2 3 true []) 0 0 5 0 0).arg1.toNat ≤ 5 := by decide

theorem witness_ShrinkIgnoresOldArrays :
    ∃ s s' t t' : State, s.ctx.valid = true ∧
      { s.ctx with cmdcount := 0#32 } = { s'.ctx with cmdcount := 0#32 } ∧
      s.arg0 = s'.arg0 ∧ s.arg1 = s'.arg1 ∧ s.arg2 = s'.arg2 ∧
      (∀ a, a < s.arg0.toNat + s.arg1.toNat → s.readByte .win a = s'.readByte .win a) ∧
      exec .shrink s = .next t ∧ exec .shrink s' = .next t' :=
  ⟨shrinkState false 7, { shrinkState false 7 with work := { Work.reset with gcur := 5, sa := [1, 2] } }, _, _, rfl, rfl,
    rfl, rfl, rfl, fun _ _ => rfl, rfl, rfl⟩

/-- The output offset at the output capacity, both at their largest. -/
theorem witness_ExpandStartsDecoder :
    { args State.reset 2 3 131072 131072 131072 with busy := true }.busy = true ∧
    (args State.reset 2 3 131072 131072 131072).arg0 = 2#32 ∧ (args State.reset 2 3 131072 131072 131072).arg1.toNat < 4 ∧
    (args State.reset 2 3 131072 131072 131072).arg2.toNat ≤ 131072 ∧
    (args State.reset 2 3 131072 131072 131072).arg4.toNat ≤ 131072 ∧
    (args State.reset 2 3 131072 131072 131072).arg3.toNat ≤ (args State.reset 2 3 131072 131072 131072).arg4.toNat := by
  decide

/-- Each operand of `EXPAND` just outside its range. -/
theorem witness_ExpandRejectsOperands :
    ¬ ((args State.reset 0 0 0 0 0).arg0 = 1#32 ∨ (args State.reset 0 0 0 0 0).arg0 = 2#32) ∧
    ¬ (args State.reset 1 4 0 0 0).arg1.toNat < 4 ∧ ¬ (args State.reset 1 0 131073 0 0).arg2.toNat ≤ 131072 ∧
    ¬ (args State.reset 1 0 0 0 131073).arg4.toNat ≤ 131072 ∧
    ¬ (args State.reset 1 0 0 6 5).arg3.toNat ≤ (args State.reset 1 0 0 6 5).arg4.toNat := by decide

/-- The reserved opcodes at the ends of their ranges. -/
theorem witness_ReservedOpcodeIsBadArg :
    (hosted [.writeReg 0x00 0#32]).hostTurnNext (.writeReg 0x00 0#32) [] ∧ (hosted [.writeReg 0x00 0#32]).busy = false ∧
    (0#32).toNat % 16 = 0 ∧ 6 ≤ (6#32).toNat % 16 ∧ 6 ≤ (15#32).toNat % 16 := ⟨rfl, rfl, by decide⟩

theorem witness_CommandWriteEndsOrStarts :
    (hosted [.writeReg 0x00 5#32, .await]).hostTurnNext (.writeReg 0x00 5#32) [.await] ∧
    (hosted [.writeReg 0x00 5#32, .await]).busy = false ∧ (5#32).toNat % 16 = 5 := ⟨rfl, rfl, by decide⟩

/-- The first and the last argument register. -/
theorem witness_HostWritesArgument :
    (hosted [.writeReg (0x10 + 4 * 5) 9#32]).hostTurnNext (.writeReg (0x10 + 4 * 5) 9#32) [] ∧
    (hosted [.writeReg (0x10 + 4 * 0) 9#32]).hostTurnNext (.writeReg (0x10 + 4 * 0) 9#32) [] ∧
    (hosted []).busy = false := ⟨rfl, rfl, rfl⟩

/-- `CMD` and the first reserved offset; a read while idle, a read of `STATUS` and of `ERRCODE` while busy, and a write of
the first reserved offset while busy. -/
theorem witness_HostReadsRegisters :
    State.reset.errcode = .ok ∧ { State.reset with errcode := .badArg }.errcode = .badArg ∧
    (hosted [.readReg 0x00]).hostTurnNext (.readReg 0x00) [] ∧ (hosted [.readReg 0x00]).busy = false ∧
    (hostedBusy [.readReg 0x04]).hostTurnNext (.readReg 0x04) [] ∧ (hostedBusy [.readReg 0x04]).busy = true ∧
    (hostedBusy [.readReg 0x0C]).hostTurnNext (.readReg 0x0C) [] ∧
    (hostedBusy [.writeReg 0x2C 9#32]).hostTurnNext (.writeReg 0x2C 9#32) [] ∧ (0x2C : Nat) % 4 = 0 :=
  ⟨rfl, rfl, rfl, rfl, rfl, rfl, rfl, rfl, rfl⟩

/-- U7, R420: while a command runs, a write of a reserved offset is ignored, and one of `ARG0` is refused. -/
theorem test_hostWriteReg_busy :
    step (hostedBusy [.writeReg 0x2C 9#32]) = .next (hostedBusy []) ∧
    step (hostedBusy [.writeReg 0x10 9#32]) = .refused .hostBusy := ⟨rfl, rfl⟩

/-- Each refused access, at the first and the last register of the window. -/
theorem witness_BusyHostStepsRefused :
    (hostedBusy [.writeReg 0x00 3#32]).busy = true ∧
    (hostedBusy [.writeReg 0x28 3#32]).hostTurnNext (.writeReg 0x28 3#32) [] ∧
    (hostedBusy [.writeReg 0x00 3#32]).hostTurnNext (.writeReg 0x00 3#32) [] ∧
    (hostedBusy [.readMem .cout 0]).hostTurnNext (.readMem .cout 0) [] ∧
    (hostedBusy [.writeMem .win 0 1#8]).hostTurnNext (.writeMem .win 0 1#8) [] ∧
    (hosted [.readReg 0x05]).hostTurnNext (.readReg 0x05) [] ∧
    (hosted [.writeReg 0x03 0#32]).hostTurnNext (.writeReg 0x03 0#32) [] ∧ (0x05 : Nat) % 4 ≠ 0 ∧ (0x03 : Nat) % 4 ≠ 0 :=
  ⟨rfl, rfl, rfl, rfl, rfl, rfl, rfl, by decide, by decide⟩

/-- The last address of a memory, and the first that does not exist, read and written. -/
theorem witness_HostByteWriteReadsBack :
    (hosted [.writeMem .win 131071 7#8, .readMem .win 131071]).busy = false ∧ (131071 : Nat) < 131072 ∧
    (hosted [.writeMem .win 0 7#8, .readMem .win 131072]).host = [.writeMem .win 0 7#8, .readMem .win 131072] ∧
    (hosted [.writeMem .win 131072 7#8, .readMem .win 0]).host = [.writeMem .win 131072 7#8, .readMem .win 0] := by
  decide

/-- R60: a write at the first address that does not exist. -/
theorem test_hostWriteMem_bound :
    step (hosted [.writeMem .win 131072 7#8]) = .fault (.noSuchAddress .win 131072) := rfl

theorem witness_TokenWaitsForLiteralExtension :
    literalWaits (.v1Cmd16 7#3 15#4) = some (.o16, 15, .v1litx) ∧
    literalWaits (.v2Rep 3#2 7#3) = some (.rep, 7, .v2litxn) := by decide

/-- A run of the largest inline count, ending exactly at the output capacity; and an empty run. -/
theorem witness_LiteralRunEndsFramedBlock :
    literalKnown (running 1#2 .v1tok false (letters [1, 2, 3, 4, 5, 6]) [] 0 6).dec (.v1Cmd8 6#3 0#4) = some ⟨6, .o8, 0⟩ ∧
    (running 1#2 .v1tok false (letters [1, 2, 3, 4, 5, 6]) [] 0 6).dec.draw = false ∧
    (running 1#2 .v1tok false (letters [1, 2, 3, 4, 5, 6]) [] 0 6).dec.dinsz = 6 ∧
    literalKnown (running 2#2 .v2litxb false [] [] 0 0).dec (.v2Litx16 0#16) = some ⟨0, .o8, 0⟩ ∧
    (running 2#2 .v2litxb false [] [] 0 0).dec.op + 0 ≤ (running 2#2 .v2litxb false [] [] 0 0).dec.dcap := by decide

/-- The state after a V2 token byte, with one byte of history: the offset nibble is 15, the match fills the output. -/
theorem witness_CommandWithInlineMatchCompletes :
    literalKnown (running 2#2 .v2tok false [0xF0#8] [0x5A#8] 0 9).dec (.v2Off5 1#1 0#2 6#3) = some ⟨0, .off5 1#1, 6⟩ ∧
    (running 2#2 .v2tok false [0xF0#8] [0x5A#8] 0 9).dec.ip + 0 < (running 2#2 .v2tok false [0xF0#8] [0x5A#8] 0 9).dec.dinsz ∧
    wireOffset (running 2#2 .v2tok false [0xF0#8] [0x5A#8] 0 9) 0 (.off5 0#1) = some ⟨1, 1, true, 0#4⟩ ∧
    wireOffset (running 2#2 .v2tok false [0xF0#8] [0x5A#8] 0 9) 0 (.off5 1#1) = some ⟨2, 1, true, 0#4⟩ ∧
    inlineMatchLength (.off5 0#1) 6 = some 8 ∧
    (running 2#2 .v2tok false [0xF0#8] [0x5A#8] 0 9).dec.op + 0 + 8 ≤
      (running 2#2 .v2tok false [0xF0#8] [0x5A#8] 0 9).dec.dcap := by decide

theorem witness_CommandWaitsForMatchExtension :
    literalKnown (running 1#2 .v1tok false [0xFF#8, 0x00#8] [0x5A#8] 0 64).dec (.v1Cmd8 0#3 15#4) = some ⟨0, .o8, 15⟩ ∧
    wireOffset (running 1#2 .v1tok false [0xFF#8, 0x00#8] [0x5A#8] 0 64) 0 .o8 = some ⟨1, 1, false, 0#4⟩ ∧
    inlineMatchLength .o8 15 = none ∧
    (running 1#2 .v1tok false [0xFF#8, 0x00#8] [0x5A#8] 0 64).dec.ip + 0 <
      (running 1#2 .v1tok false [0xFF#8, 0x00#8] [0x5A#8] 0 64).dec.dinsz ∧
    (running 1#2 .v1tok false [0xFF#8, 0x00#8] [0x5A#8] 0 64).dec.op + 0 ≤
      (running 1#2 .v1tok false [0xFF#8, 0x00#8] [0x5A#8] 0 64).dec.dcap := by decide

/-- The least length of each extension that has one, and a match that fills the output exactly. -/
theorem witness_MatchExtensionCompletes :
    extendedMatchLength (.v1Mlx8 0#8) = some 18 ∧ extendedMatchLength (.v2Mlx16 1#16) = some 1 ∧
    1 ≤ (atMatch 1#2 .v1mlx false [] 19).dec.moff ∧
    (atMatch 1#2 .v1mlx false [] 19).dec.moff ≤ (atMatch 1#2 .v1mlx false [] 19).dec.op ∧
    (atMatch 1#2 .v1mlx false [] 19).dec.op + 18 ≤ (atMatch 1#2 .v1mlx false [] 19).dec.dcap := by decide

/-- Each outcome of the marker. -/
theorem witness_EndOfDataMarker :
    (atMatch 2#2 .v2mlxb true [] 64).dec.draw = true ∧
    (atMatch 2#2 .v2mlxb true [] 64).dec.ip = (atMatch 2#2 .v2mlxb true [] 64).dec.dinsz ∧
    (atMatch 2#2 .v2mlxb true [0x00#8] 64).dec.ip ≠ (atMatch 2#2 .v2mlxb true [0x00#8] 64).dec.dinsz ∧
    (atMatch 2#2 .v2mlxb false [] 64).dec.draw = false ∧
    (atMatch 2#2 .v2mlxb false [] 64).dec.doff ≤ (atMatch 2#2 .v2mlxb false [] 64).dec.op := by decide

/-- Each literal error at its boundary: one byte too few, one byte over the capacity, a raw stream that ends, an offset
field that is cut off. -/
theorem witness_LiteralPartErrors :
    literalKnown (running 1#2 .v1tok true [0x41#8] [] 0 1).dec (.v1Cmd16 2#3 0#4) = some ⟨2, .o16, 0⟩ ∧
    literalKnown (running 1#2 .v1tok true [0x41#8] [] 0 1).dec (.v1Cmd16 1#3 0#4) = some ⟨1, .o16, 0⟩ ∧
    (running 1#2 .v1tok true [0x41#8] [] 0 1).dec.dinsz < (running 1#2 .v1tok true [0x41#8] [] 0 1).dec.ip + 2 ∧
    (running 1#2 .v1tok true [0x41#8] [] 0 0).dec.dcap < (running 1#2 .v1tok true [0x41#8] [] 0 0).dec.op + 1 ∧
    (running 1#2 .v1tok true [0x41#8] [] 0 1).dec.ip + 1 = (running 1#2 .v1tok true [0x41#8] [] 0 1).dec.dinsz ∧
    (running 1#2 .v1tok true [0x41#8] [] 0 1).dec.draw = true ∧
    wireOffset (running 1#2 .v1tok true [0x41#8, 0xFF#8] [] 0 1) 1 .o16 = none ∧
    (running 1#2 .v1tok true [0x41#8, 0xFF#8] [] 0 1).dec.ip + 1 <
      (running 1#2 .v1tok true [0x41#8, 0xFF#8] [] 0 1).dec.dinsz := by decide

/-- Each match error at its boundary: offset 0 by `V2.REP` and held, an offset one too far, a match one byte too long,
and the length 0 of `V2.MLX16`. -/
theorem witness_MatchPartErrors :
    extendedMatchLength (.v2Mlx16 0#16) = some 0 ∧
    (running 2#2 .v2mlxb false [] [] 0 64).dec.moff < 1 ∧
    (atMatch 1#2 .v1mlx false [] 18).dec.dcap < (atMatch 1#2 .v1mlx false [] 18).dec.op + 18 ∧
    (running 1#2 .v1mlx false [] [] 0 64).dec.op <
      ((running 1#2 .v1mlx false [] [] 0 64).withDec { (running 1#2 .v1mlx false [] [] 0 64).dec with moff := 1 }).dec.moff ∧
    literalKnown (running 2#2 .v2tok false [0x00#8] [] 0 64).dec (.v2Rep 0#2 0#3) = some ⟨0, .rep, 0⟩ ∧
    wireOffset (running 2#2 .v2tok false [0x00#8] [] 0 64) 0 .rep = some ⟨0, 0, false, 0#4⟩ ∧
    wireOffset (running 1#2 .v1tok false [0xFE#8] [0x5A#8] 0 64) 0 .o8 = some ⟨2, 1, false, 0#4⟩ ∧
    inlineMatchLength .rep 0 = some 2 ∧ inlineMatchLength .o8 14 = some 17 ∧
    (running 1#2 .v1tok false [0xFF#8] [0x5A#8] 0 17).dec.dcap <
      (running 1#2 .v1tok false [0xFF#8] [0x5A#8] 0 17).dec.op + 0 + 17 := by decide

theorem witness_StreamFormsStayInBounds :
    isStreamForm (.v1Mlx8 0#8) = true ∧ (atMatch 1#2 .v1mlx false [] 19).dec.doff ≤ (atMatch 1#2 .v1mlx false [] 19).dec.op ∧
    ∃ t, exec (.v1Mlx8 0#8) (atMatch 1#2 .v1mlx false [] 19) = .next t := ⟨rfl, by decide, _, rfl⟩

theorem witness_MatchCopyRepeatsThePattern : (1 : Nat) ≤ 1 ∧ (3 : Nat) ≤ 3 := by decide

theorem witness_IntervalsAreComplete : letters [2, 1, 14] ≠ [] := by decide

theorem witness_PackedIntervalWord : (32767 : Nat) ≤ 32767 ∧ (131071 : Nat) < 131072 := by decide

/-- Position 6 of `abaaabaaa` has two candidates. -/
theorem witness_Candidates :
    (findMatches 2 0 (letters [1, 2, 1, 1, 1, 2, 1, 1, 1]))[6]? = some [⟨3, 4⟩, ⟨2, 3⟩] ∧
    (Work.reset.findMatches 2 0 (letters [1, 2, 1, 1, 1, 2, 1, 1, 1])).cand[6]? = some [⟨3, 4⟩, ⟨2, 3⟩] ∧
    (1 : Nat) ≤ 2 := by decide

/-- What a `SHRINK` of `abaaabaaa` in a V2 context leaves (M3, O2 and T3 of 95_test_vectors.md). -/
def parsed : Work := (compress (context 2#2 2 false []).ctx Work.reset (letters [1, 2, 1, 1, 1, 2, 1, 1, 1]) 0).1

/-- An offset in the last slot, and one that is absent; a V2 context, and a position with two candidates. -/
theorem witness_FavoredTableIsDistinct :
    [7, 5, 3, 2].length = 4 ∧ ([7, 5, 3, 2].filter (fun x => decide (x ≠ 0))).Nodup ∧ slotOf 2 [7, 5, 3, 2] = some 3 ∧
    slotOf 9 [7, 5, 3, 2] = none ∧ (context 2#2 2 false []).ctx.fmt = 2#2 ∧
    parsed.cand[6]? = some [⟨3, 4⟩, ⟨2, 3⟩] ∧
    parsed.ro[6]?.map (fun l => l.map (fun a => a.slotCode)) = some [0, 4] := by decide

/-- A position with two candidates and one without any (neither is left alone), in V2; and one that is left alone: 513
equal bytes, one of them history, in a V1 context without the favor-ratio flag. -/
theorem witness_CostArraysFollowTheRules :
    (true = true ↔ (context 2#2 2 false []).ctx.fmt = 2#2) ∧
    parsed.cand[6]? = some [⟨3, 4⟩, ⟨2, 3⟩] ∧ parsed.cand[0]? = some [] ∧ ¬ leftAlone true [⟨3, 4⟩, ⟨2, 3⟩] ∧
    (compress { (context 1#2 3 false []).ctx with favor := false } Work.reset (List.replicate 513 0x41#8) 1).1.cand[0]? =
      some [⟨512, 1⟩] ∧ leftAlone false [⟨512, 1⟩] :=
  ⟨by decide, by decide, by decide, fun h => (nomatch h.1), by decide +kernel, rfl, _, rfl, by decide⟩

/-- Four literals, then a match, which end with the cost 47 of T3. -/
theorem witness_WalkHasTheTotalCost :
    (true = true ↔ (context 2#2 2 false []).ctx.fmt = 2#2) ∧
    tokenSteps 0 parsed.tok = [.lit 0, .lit 1, .lit 2, .lit 3, .mtch 4 4 5] ∧
    parsed.costsAt 0 = some ⟨some 47, none, none⟩ := by decide

/-- Each range of the tables at its ends (R202, R203). -/
theorem witness_HeaderCostBounds :
    offBits false 256 = 8 ∧ offBits false 257 = 16 ∧ offBits true 32 = 4 ∧ offBits true 512 = 8 ∧ offBits true 8704 = 12 ∧
    offBits true 8705 = 16 ∧ matchExtBits false 17 = 0 ∧ matchExtBits false 511 = 16 ∧ matchExtBits true 23 = 4 ∧
    matchExtBits true 255 = 12 := by decide

/-- A parse by choices: a match of three bytes, then a literal. -/
theorem witness_ParseIsOptimalWithFavor :
    choiceCost true none 0 [[(⟨3, 1⟩, none)], [], [], []] [some 0, none, none, none] = some 23 := by decide

theorem witness_TokensReconstructTheBlock : 1 ≤ (letters [1, 1, 1, 1]).length := by decide

/-- Four equal letters: a literal, then a match. -/
theorem witness_RepeatFlagsFollowTheOffsets :
    (compress (context 2#2 2 false []).ctx Work.reset (letters [1, 1, 1, 1]) 0).1.tok =
      [.lit 0 1] ++ .mtch 1 3 false :: [] := by decide

theorem witness_NoRepeatOptimizerInV1 : (shrinkState false 64).ctx.fmt = 1#2 := rfl

/-- A context of the least legal minimum match size, and the capacity of the rule. -/
theorem witness_TwiceTheInputSuffices :
    minMatchFloor (context 1#2 3 false []).ctx.fmt ≤ (context 1#2 3 false []).ctx.minmatch ∧
    (shrinkState false 30).Inv ∧ 2 * (shrinkState false 30).arg1.toNat + 8 ≤ (shrinkState false 30).arg2.toNat ∧
    ∃ t, exec .shrink (shrinkState false 30) = .next t :=
  ⟨by decide, {
    memories := fun sp => by cases sp <;> decide
    decoder := fun h => by cases h
    cleared := fun h => by cases h
    flag := by decide
    minusOne := by decide
    context := by unfold Ctx.legal; decide }, by decide, _, rfl⟩

/-- One literal and a match of 18 at offset 1: the command `1F 41 FF 00`. -/
theorem witness_V1CommandDecodesBack :
    v1Command false [0x41#8] ⟨0, 1, some ⟨1, 18, false⟩⟩ = [0x1F#8, 0x41#8, 0xFF#8, 0x00#8] ∧
    (running 1#2 .v1tok false [0x1F#8, 0x41#8, 0xFF#8, 0x00#8] [] 0 19).readBytes .din 0 4 =
      [0x1F#8, 0x41#8, 0xFF#8, 0x00#8] ∧
    (running 1#2 .v1tok false [0x1F#8, 0x41#8, 0xFF#8, 0x00#8] [] 0 19).dec.dinsz = 4 ∧
    (running 1#2 .v1tok false [0x1F#8, 0x41#8, 0xFF#8, 0x00#8] [] 0 19).dec.op + 1 + 18 ≤
      (running 1#2 .v1tok false [0x1F#8, 0x41#8, 0xFF#8, 0x00#8] [] 0 19).dec.dcap ∧
    (running 1#2 .v1tok false [0x1F#8, 0x41#8, 0xFF#8, 0x00#8] [] 0 19).busy = true := by decide

/-- A running `EXPAND` over the block of four bytes `41`, without history. -/
theorem witness_RoundTripV1 :
    StartsExpand (running 1#2 .v1tok false [0x10#8, 0x41#8, 0xFF#8, 0x00#8] [] 0 4) 1#2 false
      (compress (context 1#2 3 false []).ctx Work.reset (List.replicate 4 0x41#8) 0).2 [] 4 :=
  ⟨rfl, rfl, by decide, by decide, rfl⟩

theorem witness_RoundTripV2 :
    StartsExpand (running 2#2 .v2tok false [0x09#8, 0x41#8, 0xF0#8, 0x00#8] [] 0 4) 2#2 false
      (compress (context 2#2 2 false []).ctx Work.reset (List.replicate 4 0x41#8) 0).2 [] 4 :=
  ⟨rfl, rfl, by decide, by decide, rfl⟩

end Sys2Proof.Tests
end

section
/-! The host's write of `CMD` (R22, R93): how a step takes an access off the host's list, what the command word decodes to,
and how a reserved opcode ends. -/

namespace Sys2Proof.Machine

/-- On the host's turn with an idle engine, a step is the host's access (R20, R75). -/
theorem step_of_hostTurnNext {s : State} {a : HostAct} {rest : List HostAct} (ha : s.hostTurnNext a rest)
    (hidle : s.busy = false) : step s = hostTurn { s with host := rest } a := by
  have hhost : s.host = a :: rest := ha
  simp [step, nextMove, hhost, hidle]

/-- A step that writes `CMD` on an idle engine is the command write (R22). -/
theorem step_writeCmd {s : State} {w : Word} {rest : List HostAct} (ha : s.hostTurnNext (.writeReg 0x00 w) rest)
    (hidle : s.busy = false) : step s = commandWrite { s with host := rest } w :=
  step_of_hostTurnNext ha hidle

/-- A command word the decoder rejects ends with `BAD_ARG`, just after the start of the command (R93). -/
theorem commandWrite_of_rejected {s : State} {w : Word} {why : DecodeError} (hidle : s.busy = false)
    (hw : decode .cmdw (bytesOfWord w) = .rejected why) :
    commandWrite s w = .next ((s.beginCommand w).raise .badArg) := by
  simp [commandWrite, hidle, hw]

/-- Ending with an error overwrites every flag the start of the command has set; only `CMD` keeps the word. -/
theorem State.raise_beginCommand (s : State) (w : Word) (k : ErrKind) :
    (s.beginCommand w).raise k = { s with cmd := w }.raise k := rfl

/-- The opcode of a command word: the low nibble of its first byte is the word modulo 16 (R90). -/
theorem opcode_of_word (w : Word) : ((w.extractLsb' 0 8).extractLsb' 0 4).toNat = w.toNat % 16 := by
  simp only [BitVec.extractLsb'_toNat, Nat.shiftRight_zero]
  omega

/-- The decoder rejects every word with a reserved opcode (R93). -/
theorem decode_cmdw_reserved {w : Word} (hw : w.toNat % 16 = 0 ∨ 6 ≤ w.toNat % 16) :
    decode .cmdw (bytesOfWord w) = .rejected .reservedOpcode := by
  have hne : ∀ k, 1 ≤ k → k ≤ 5 → w.toNat % 16 ≠ k := by omega
  simp only [decode, bytesOfWord, decodeCmdw, opcode_of_word]
  simp [hne]

/-- Settles O26: the decoder rejects the word, so the command write begins the command and ends it with `BAD_ARG`. -/
theorem reservedOpcodeIsBadArg : Obligations.ReservedOpcodeIsBadArg := by
  intro s w rest ha hidle hw
  calc step s = commandWrite { s with host := rest } w := step_writeCmd ha hidle
    _ = .next ((State.beginCommand { s with host := rest } w).raise .badArg) :=
      commandWrite_of_rejected hidle (decode_cmdw_reserved hw)
    _ = .next (State.raise { s with host := rest, cmd := w } .badArg) := by rw [State.raise_beginCommand]

end Sys2Proof.Machine
end

section
/-! The suffix array and the `LCP` array (R141, R142): the suffix order is the order of the lists of byte values, the
model's insertion is the library's insertion sort for it, and `LCP` compares neighbours of `SA`; and the packed word of a
length class and a position (R145). -/

namespace Sys2Proof.Machine

/-! ### The suffix order -/

/-- The unsigned values of a byte string; the suffix order (R141) is the lexicographic order of these lists. -/
def byteValues (x : List Byte) : List Nat := x.map (fun b => b.toNat)

theorem lex_byte_iff (x y : List Byte) :
    List.Lex (fun a b : Byte => a.toNat < b.toNat) x y ↔ byteValues x < byteValues y := by
  induction x generalizing y with
  | nil => cases y <;> simp [byteValues]
  | cons a x ih =>
    cases y with
    | nil => simp [byteValues]
    | cons b y =>
      have ih' := ih y
      simp only [byteValues] at ih'
      simp [byteValues, List.cons_lex_cons_iff, List.cons_lt_cons_iff, ih', BitVec.toNat_inj]

theorem suffixLt_iff (x y : List Byte) : suffixLt x y = true ↔ byteValues x < byteValues y := by
  fun_induction suffixLt x y with
  | case1 => simp [byteValues]
  | case2 => simp [byteValues]
  | case3 => simp [byteValues]
  | case4 a x b y hab => simp [byteValues, List.cons_lt_cons_iff, hab]
  | case5 a x b y hab hba => simp [byteValues, List.cons_lt_cons_iff, hab, Nat.ne_of_gt hba]
  | case6 a x b y hab hba ih =>
    have heq : a.toNat = b.toNat := by omega
    simpa [byteValues, List.cons_lt_cons_iff, heq] using ih

/-! ### The sorted suffixes -/

/-- The suffix at a position, with its position. -/
def suffixAt (w : List Byte) (i : Nat) : Nat × List Byte := (i, w.drop i)

/-- Not after in the suffix order: the order the model sorts by. -/
def suffixLe (s t : Nat × List Byte) : Prop := byteValues s.2 ≤ byteValues t.2

theorem suffixesFrom_eq (i : Nat) (w : List Byte) :
    suffixesFrom i w = (List.range w.length).map (fun k => (i + k, w.drop k)) := by
  induction w generalizing i with
  | nil => rfl
  | cons b w ih =>
    simp only [suffixesFrom, ih, List.length_cons, List.range_succ_eq_map, List.map_cons, List.map_map]
    simp [Function.comp_def, Nat.add_assoc, Nat.add_comm 1]

theorem suffixesFrom_zero (w : List Byte) : suffixesFrom 0 w = (List.range w.length).map (suffixAt w) := by
  rw [suffixesFrom_eq]
  exact List.map_congr_left fun i _ => by rw [Nat.zero_add, suffixAt]

theorem insertSuffix_eq_orderedInsert [DecidableRel suffixLe] (s : Nat × List Byte) (ts : List (Nat × List Byte)) :
    insertSuffix s ts = ts.orderedInsert suffixLe s := by
  induction ts with
  | nil => rfl
  | cons t ts ih =>
    have hle : suffixLe s t ↔ ¬ suffixLt t.2 s.2 = true := by rw [suffixLt_iff, not_lt, suffixLe]
    by_cases hts : suffixLt t.2 s.2 = true
    · simp [insertSuffix, hle, hts, ih]
    · simp [insertSuffix, hle, hts]

theorem sortedSuffixes_eq_insertionSort [DecidableRel suffixLe] (w : List Byte) :
    sortedSuffixes w = ((List.range w.length).map (suffixAt w)).insertionSort suffixLe := by
  have hins : insertSuffix = List.orderedInsert suffixLe :=
    funext fun s => funext (insertSuffix_eq_orderedInsert s)
  rw [sortedSuffixes, suffixesFrom_zero, hins, List.insertionSort]

theorem sortedSuffixes_perm (w : List Byte) :
    (sortedSuffixes w).Perm ((List.range w.length).map (suffixAt w)) := by
  classical
  rw [sortedSuffixes_eq_insertionSort]
  exact List.perm_insertionSort _ _

theorem sortedSuffixes_pairwise (w : List Byte) : (sortedSuffixes w).Pairwise suffixLe := by
  classical
  have htotal : Std.Total suffixLe := ⟨fun _ _ => le_total _ _⟩
  have htrans : IsTrans _ suffixLe := ⟨fun _ _ _ => le_trans⟩
  rw [sortedSuffixes_eq_insertionSort]
  exact List.pairwise_insertionSort suffixLe _

/-! ### The suffix array -/

theorem suffixArray_perm (w : List Byte) : (suffixArray w).Perm (List.range w.length) := by
  simpa [suffixArray, suffixAt, Function.comp_def] using (sortedSuffixes_perm w).map (fun s => s.1)

/-- The sorted suffixes are those `SA` names, in its order. -/
theorem sortedSuffixes_eq_map (w : List Byte) : sortedSuffixes w = (suffixArray w).map (suffixAt w) := by
  have hself : ∀ s ∈ sortedSuffixes w, suffixAt w s.1 = s := by
    intro s hs
    obtain ⟨i, -, rfl⟩ := List.mem_map.1 ((sortedSuffixes_perm w).mem_iff.1 hs)
    rfl
  rw [suffixArray, List.map_map]
  exact ((List.map_congr_left hself).trans (List.map_id _)).symm

/-- Two positions name different suffixes, since these differ in length (R141). -/
theorem byteValues_drop_inj {w : List Byte} {i j : Nat} (hi : i < w.length) (hj : j < w.length)
    (h : byteValues (w.drop i) = byteValues (w.drop j)) : i = j := by
  have hlen := congrArg List.length h
  simp only [byteValues, List.length_map, List.length_drop] at hlen
  omega

/-- The suffix at position `i` comes before the suffix at `j` (R141). -/
abbrev SuffixRises (w : List Byte) (i j : Nat) : Prop :=
  List.Lex (fun a b : Byte => a.toNat < b.toNat) (w.drop i) (w.drop j)

theorem mem_suffixArray_iff (w : List Byte) (i : Nat) : i ∈ suffixArray w ↔ i < w.length := by
  rw [(suffixArray_perm w).mem_iff, List.mem_range]

theorem suffixArray_pairwise (w : List Byte) : (suffixArray w).Pairwise (SuffixRises w) := by
  have hnodup : (suffixArray w).Nodup := (suffixArray_perm w).nodup_iff.2 List.nodup_range
  have hle : (suffixArray w).Pairwise (fun i j => suffixLe (suffixAt w i) (suffixAt w j)) := by
    simpa only [sortedSuffixes_eq_map, List.pairwise_map] using sortedSuffixes_pairwise w
  refine (hle.and hnodup).imp_of_mem ?_
  intro i j hi hj hij
  rw [mem_suffixArray_iff] at hi hj
  rw [SuffixRises, lex_byte_iff]
  exact lt_of_le_of_ne hij.1 (fun h => hij.2 (byteValues_drop_inj hi hj h))

/-- A strictly rising permutation of the positions is `SA` (R141). -/
theorem eq_suffixArray {w : List Byte} {l : List Nat} (hperm : l.Perm (List.range w.length))
    (hrise : l.Pairwise (SuffixRises w)) : l = suffixArray w := by
  refine (hperm.trans (suffixArray_perm w).symm).eq_of_pairwise ?_ hrise (suffixArray_pairwise w)
  intro i j _ _ hij hji
  rw [SuffixRises, lex_byte_iff] at hij hji
  exact absurd (hij.trans hji) (lt_irrefl _)

/-! ### Common prefixes -/

theorem commonPrefix_le_left (x y : List Byte) : commonPrefix x y ≤ x.length := by
  fun_induction commonPrefix x y with
  | case1 x b y ih => simpa using ih
  | case2 => exact Nat.zero_le _
  | case3 => exact Nat.zero_le _

theorem commonPrefix_le_right (x y : List Byte) : commonPrefix x y ≤ y.length := by
  fun_induction commonPrefix x y with
  | case1 x b y ih => simpa using ih
  | case2 => exact Nat.zero_le _
  | case3 => exact Nat.zero_le _

theorem getElem?_eq_of_lt_commonPrefix (x y : List Byte) :
    ∀ k, k < commonPrefix x y → x[k]? = y[k]? := by
  fun_induction commonPrefix x y with
  | case1 x b y ih =>
    intro k hk
    cases k with
    | zero => rfl
    | succ k => simpa using ih k (by omega)
  | case2 => intro k hk; omega
  | case3 => intro k hk; omega

theorem getElem?_commonPrefix_ne (x y : List Byte) (hx : commonPrefix x y < x.length)
    (hy : commonPrefix x y < y.length) : x[commonPrefix x y]? ≠ y[commonPrefix x y]? := by
  fun_induction commonPrefix x y with
  | case1 x b y ih => simpa using ih (by simpa using hx) (by simpa using hy)
  | case2 a x b y hab => simpa using hab
  | case3 x y hne =>
    cases x with
    | nil => simp at hx
    | cons a x =>
      cases y with
      | nil => simp at hy
      | cons b y => exact (hne a x b y rfl rfl).elim

/-! ### The `LCP` array -/

theorem length_lcpAfter (p : List Byte) (ss : List (Nat × List Byte)) : (lcpAfter p ss).length = ss.length := by
  induction ss generalizing p with
  | nil => rfl
  | cons s ss ih => simp [lcpAfter, ih]

theorem length_lcpOf (ss : List (Nat × List Byte)) : (lcpOf ss).length = ss.length := by
  cases ss <;> simp [lcpOf, length_lcpAfter]

theorem getElem?_lcpAfter {p : List Byte} {ss : List (Nat × List Byte)} {r : Nat} {s t : Nat × List Byte} {i : Nat}
    (hs : ((i, p) :: ss)[r]? = some s) (ht : ss[r]? = some t) :
    (lcpAfter p ss)[r]? = some (min (commonPrefix s.2 t.2) Config.lcpMax) := by
  induction ss generalizing p r i with
  | nil => simp at ht
  | cons u us ih =>
    cases r with
    | zero =>
      obtain rfl : (i, p) = s := by simpa using hs
      obtain rfl : u = t := by simpa using ht
      rfl
    | succ r => exact ih (i := u.1) (by simpa using hs) (by simpa using ht)

theorem getElem?_lcpOf_succ {ss : List (Nat × List Byte)} {r : Nat} {s t : Nat × List Byte}
    (hs : ss[r]? = some s) (ht : ss[r + 1]? = some t) :
    (lcpOf ss)[r + 1]? = some (min (commonPrefix s.2 t.2) Config.lcpMax) := by
  cases ss with
  | nil => simp at hs
  | cons u us => simpa [lcpOf] using getElem?_lcpAfter (i := u.1) hs (by simpa using ht)

/-! ### `BUILD_INDEX` -/

@[simp] theorem Work.buildIndex_sa (k : Work) (w : List Byte) : (k.buildIndex w).sa = suffixArray w := rfl

@[simp] theorem Work.buildIndex_lcp (k : Work) (w : List Byte) :
    (k.buildIndex w).lcp = lcpOf (sortedSuffixes w) := rfl

@[simp] theorem Work.buildIndex_ivl (k : Work) (w : List Byte) :
    (k.buildIndex w).ivl = intervalsOf (lcpOf (sortedSuffixes w)) := rfl

theorem length_sortedSuffixes (w : List Byte) : (sortedSuffixes w).length = w.length := by
  simpa using (sortedSuffixes_perm w).length_eq

theorem lcpOf_sortedSuffixes_eq_cons {w : List Byte} (hw : 0 < w.length) :
    ∃ ls, lcpOf (sortedSuffixes w) = 0 :: ls := by
  rw [← length_sortedSuffixes] at hw
  obtain ⟨s, ss, hss⟩ := List.exists_cons_of_length_pos hw
  exact ⟨lcpAfter s.2 ss, by rw [hss, lcpOf]⟩

/-- `LCP[r + 1]` is the capped `cpl` of the suffixes ranked `r` and `r + 1` (R142). -/
theorem lcp_of_neighbours {w : List Byte} {r i j : Nat} (hi : (suffixArray w)[r]? = some i)
    (hj : (suffixArray w)[r + 1]? = some j) :
    (lcpOf (sortedSuffixes w))[r + 1]? = some (min (commonPrefix (w.drop i) (w.drop j)) 32767) := by
  have hs : ∀ q p : Nat, (suffixArray w)[q]? = some p → (sortedSuffixes w)[q]? = some (suffixAt w p) := by
    intro q p hp
    simp [sortedSuffixes_eq_map, hp]
  exact getElem?_lcpOf_succ (hs r i hi) (hs (r + 1) j hj)

/-- What two suffixes share (R142, `cpl`), in the bytes of the window. -/
theorem commonPrefix_drop_spec (w : List Byte) {i j : Nat} (hi : i < w.length) (hj : j < w.length) :
    let c := commonPrefix (w.drop i) (w.drop j)
    i + c ≤ w.length ∧ j + c ≤ w.length ∧ (∀ x, x < c → w[i + x]? = w[j + x]?) ∧
      (i + c < w.length → j + c < w.length → w[i + c]? ≠ w[j + c]?) := by
  intro c
  have hci : c ≤ w.length - i := by simpa using commonPrefix_le_left (w.drop i) (w.drop j)
  have hcj : c ≤ w.length - j := by simpa using commonPrefix_le_right (w.drop i) (w.drop j)
  refine ⟨by omega, by omega, fun x hx => ?_, fun hin hjn => ?_⟩
  · simpa using getElem?_eq_of_lt_commonPrefix (w.drop i) (w.drop j) x hx
  · have hne := getElem?_commonPrefix_ne (w.drop i) (w.drop j)
      (by rw [List.length_drop]; omega) (by rw [List.length_drop]; omega)
    simpa using hne

/-- Settles O43: `SA` is a strictly rising permutation, which determines it, and each later entry of `LCP` is the capped
`cpl` of its two suffixes. -/
theorem suffixArrayIsSorted : Obligations.SuffixArrayIsSorted := by
  intro k w
  refine ⟨suffixArray_perm w, suffixArray_pairwise w, fun l hperm hrise => eq_suffixArray hperm hrise, ?_, ?_, ?_⟩
  · rw [Work.buildIndex_lcp, length_lcpOf, length_sortedSuffixes]
  · intro hpos
    obtain ⟨ls, hlcp⟩ := lcpOf_sortedSuffixes_eq_cons hpos
    rw [Work.buildIndex_lcp, hlcp, List.getElem?_cons_zero]
  · intro r i j hi hj
    have hmem : ∀ q p : Nat, (suffixArray w)[q]? = some p → p < w.length :=
      fun q p hp => (mem_suffixArray_iff w p).1 (List.mem_of_getElem? hp)
    exact ⟨_, lcp_of_neighbours hi hj, commonPrefix_drop_spec w (hmem r i hi) (hmem (r + 1) j hj)⟩

/-! ### The packed word -/

/-- Settles O45: the two fields are concatenated, and each fits its width. -/
theorem packedIntervalWord : Obligations.PackedIntervalWord := by
  intro l p hl hp
  rw [packWord, BitVec.toNat_append, BitVec.toNat_ofNat, BitVec.toNat_ofNat, Nat.mod_eq_of_lt (by omega),
    Nat.mod_eq_of_lt (by omega), ← Nat.shiftLeft_add_eq_or_of_lt (by omega), Nat.shiftLeft_eq]

end Sys2Proof.Machine
end

section
/-! The Suffix Intervals (R143, R146): what the stack `OPEN` holds at each rank of the pass over `LCP`, which intervals the
pass emits, and the bytes that the suffixes of an interval share. -/

namespace Sys2Proof.Machine

/-! ### One step of the stack -/

/-- The order of the stack `OPEN`: the deepest interval on top, no two of the same `lcp`. -/
abbrev Descending (os : List OpenInterval) : Prop := os.Pairwise (fun o o' => o'.lcp < o.lcp)

theorem Descending.le_of_head_le {o : OpenInterval} {os : List OpenInterval} (hdesc : Descending (o :: os)) {l : Nat}
    (ho : o.lcp ≤ l) : ∀ o' ∈ os, o'.lcp ≤ l :=
  fun _ h' => (List.rel_of_pairwise_cons hdesc h').le.trans ho

theorem Descending.lt_of_head_lt {o : OpenInterval} {os : List OpenInterval} (hdesc : Descending (o :: os)) {l : Nat}
    (ho : o.lcp < l) : ∀ o' ∈ o :: os, o'.lcp < l :=
  List.forall_mem_cons.2 ⟨ho, fun _ h' => (List.rel_of_pairwise_cons hdesc h').trans ho⟩

/-- An open interval, closed at a right bound. -/
def OpenInterval.closeAt (rb : Nat) (o : OpenInterval) : Interval := ⟨o.lcp, o.lb, rb⟩

section
variable (l rb : Nat)

theorem closeIntervals_emitted {os : List OpenInterval} (hdesc : Descending os) (lb : Nat) :
    (closeIntervals l rb lb os).1 = (os.filter (fun o => l < o.lcp)).map (OpenInterval.closeAt rb) := by
  induction os generalizing lb with
  | nil => rfl
  | cons o os ih =>
    by_cases ho : l < o.lcp
    · simp [closeIntervals, ho, ih hdesc.of_cons, OpenInterval.closeAt]
    · have hnone : os.filter (fun o => l < o.lcp) = [] := by
        simpa using hdesc.le_of_head_le (Nat.le_of_not_lt ho)
      simp [closeIntervals, ho, hnone]

theorem closeIntervals_stack {os : List OpenInterval} (hdesc : Descending os) (lb : Nat) :
    (closeIntervals l rb lb os).2.2 = os.filter (fun o => o.lcp ≤ l) := by
  induction os generalizing lb with
  | nil => rfl
  | cons o os ih =>
    by_cases ho : l < o.lcp
    · simp [closeIntervals, ho, ih hdesc.of_cons]
    · have hkeep : os.filter (fun o => o.lcp ≤ l) = os := by
        simpa using hdesc.le_of_head_le (Nat.le_of_not_lt ho)
      simp [closeIntervals, ho, hkeep, Nat.le_of_not_lt ho]

/-- The left bound handed on is the given one when nothing closes, else that of the closed interval of least `lcp`. -/
theorem closeIntervals_leftBound {os : List OpenInterval} (hdesc : Descending os) (lb : Nat) :
    ((closeIntervals l rb lb os).2.1 = lb ∧ ∀ o ∈ os, o.lcp ≤ l) ∨
    ∃ o ∈ os, l < o.lcp ∧ (closeIntervals l rb lb os).2.1 = o.lb ∧ ∀ o' ∈ os, l < o'.lcp → o.lcp ≤ o'.lcp := by
  induction os generalizing lb with
  | nil => exact .inl ⟨rfl, by simp⟩
  | cons o os ih =>
    obtain ⟨hlt, htail⟩ := List.pairwise_cons.1 hdesc
    by_cases ho : l < o.lcp
    · refine .inr ?_
      obtain ⟨hlb, hnone⟩ | ⟨p, hp, hpl, hlb, hleast⟩ := ih htail o.lb
      · refine ⟨o, by simp, ho, by simpa [closeIntervals, ho] using hlb, ?_⟩
        exact List.forall_mem_cons.2 ⟨fun _ => le_rfl, fun _ h' _ => absurd (hnone _ h') (by omega)⟩
      · refine ⟨p, by simp [hp], hpl, by simpa [closeIntervals, ho] using hlb, ?_⟩
        exact List.forall_mem_cons.2 ⟨fun _ => (hlt p hp).le, hleast⟩
    · refine .inl ⟨by simp [closeIntervals, ho], List.forall_mem_cons.2 ?_⟩
      exact ⟨Nat.le_of_not_lt ho, hdesc.le_of_head_le (Nat.le_of_not_lt ho)⟩

end

theorem mem_openInterval {os : List OpenInterval} (hdesc : Descending os) (l lb : Nat) (o : OpenInterval) :
    o ∈ openInterval l lb os ↔ o ∈ os ∨ (o = ⟨l, lb⟩ ∧ ∀ o' ∈ os, o'.lcp < l) := by
  cases os with
  | nil => simp [openInterval]
  | cons p os =>
    by_cases hp : p.lcp < l
    · rw [openInterval, if_pos hp, List.mem_cons, or_comm]
      exact or_congr_right (and_iff_left (hdesc.lt_of_head_lt hp)).symm
    · simp [openInterval, hp]

theorem openInterval_descends {os : List OpenInterval} (hdesc : Descending os) (l lb : Nat) :
    Descending (openInterval l lb os) := by
  cases os with
  | nil => simp [openInterval]
  | cons p os =>
    by_cases hp : p.lcp < l
    · rw [openInterval, if_pos hp]
      exact List.pairwise_cons.2 ⟨hdesc.lt_of_head_lt hp, hdesc⟩
    · rwa [openInterval, if_neg hp]

/-! ### What the stack holds -/

/-- Before rank `r` of the array `a`, an interval of `lcp` `o.lcp` that begins at `o.lb` is still open: the root, or the
conditions of R143 on the ranks below `r`. -/
def OpenAt (a : Nat → Nat) (r : Nat) (o : OpenInterval) : Prop :=
  o.lcp = 0 ∧ o.lb = 0 ∨
  1 ≤ o.lcp ∧ a o.lb < o.lcp ∧ (∀ x, o.lb < x → x < r → o.lcp ≤ a x) ∧ ∃ x, o.lb < x ∧ x < r ∧ a x = o.lcp

/-- An interval of `lcp` `a r` that begins at `lb` has its first entry equal to its `lcp` at rank `r`. -/
def StartsAt (a : Nat → Nat) (r lb : Nat) : Prop :=
  lb < r ∧ a lb < a r ∧ ∀ x, lb < x → x < r → a r < a x

/-- The stack `OPEN` before rank `r`: the open intervals, deepest first. -/
structure StackAt (a : Nat → Nat) (r : Nat) (os : List OpenInterval) : Prop where
  descends : Descending os
  mem_iff : ∀ o, o ∈ os ↔ OpenAt a r o

/-- A Suffix Interval is an interval still open after its right bound that the next rank closes (R143). -/
theorem isSuffixInterval_iff (lcp : List Nat) (v : Interval) :
    isSuffixInterval lcp v ↔ v.rb < lcp.length ∧ OpenAt (fun x => lcp.getD x 0) (v.rb + 1) ⟨v.lcp, v.lb⟩ ∧
      (v.rb + 1 = lcp.length ∨ lcp.getD (v.rb + 1) 0 < v.lcp) := by
  simp only [isSuffixInterval, OpenAt, Nat.lt_succ_iff]
  constructor
  · rintro (⟨hl, hlb, hrb⟩ | ⟨hl, -, hrb, hall, hex, hleft, hright⟩)
    · exact ⟨by omega, .inl ⟨hl, hlb⟩, .inl hrb⟩
    · exact ⟨hrb, .inr ⟨hl, hleft, hall, hex⟩, hright⟩
  · rintro ⟨hrb, ⟨hl, hlb⟩ | ⟨hl, hleft, hall, x, hlx, hxr, hax⟩, hright⟩
    · exact .inl ⟨hl, hlb, by omega⟩
    · exact .inr ⟨hl, by omega, hrb, hall, ⟨x, hlx, hxr, hax⟩, hleft, hright⟩

section
variable {a : Nat → Nat} {r : Nat}

/-- Up to any rank there is a last entry below a bound, when the first entry is below it. -/
theorem exists_last_lt {t : Nat} (h0 : a 0 < t) (y : Nat) :
    ∃ lb, lb ≤ y ∧ a lb < t ∧ ∀ x, lb < x → x ≤ y → t ≤ a x := by
  induction y with
  | zero => exact ⟨0, le_rfl, h0, fun x h h' => by omega⟩
  | succ y ih =>
    by_cases hy : a (y + 1) < t
    · exact ⟨y + 1, le_rfl, hy, fun x h h' => by omega⟩
    · obtain ⟨lb, hlb, hlt, hge⟩ := ih
      refine ⟨lb, by omega, hlt, fun x h h' => ?_⟩
      obtain hxy | rfl := Nat.le_succ_iff.1 h'
      · exact hge x h hxy
      · exact Nat.le_of_not_lt hy

/-- Every entry that no later one undercuts is the `lcp` of an open interval. -/
theorem exists_openAt (h0 : a 0 = 0) {y : Nat} (hyr : y < r) (hlater : ∀ x, y < x → x < r → a y ≤ a x) :
    ∃ o, OpenAt a r o ∧ o.lcp = a y := by
  obtain hzero | hpos := Nat.eq_zero_or_pos (a y)
  · exact ⟨⟨0, 0⟩, .inl ⟨rfl, rfl⟩, hzero.symm⟩
  · obtain ⟨lb, hlb, hlt, hge⟩ := exists_last_lt (h0.trans_lt hpos) y
    have hne : lb ≠ y := by rintro rfl; omega
    refine ⟨⟨a y, lb⟩, .inr ⟨hpos, hlt, fun x hx hxr => ?_, y, by dsimp only; omega, hyr, rfl⟩, rfl⟩
    obtain hxy | hxy := le_or_gt x y
    · exact hge x hx hxy
    · exact hlater x hxy hxr

theorem startsAt_unique {p q : Nat} (hp : StartsAt a r p) (hq : StartsAt a r q) : p = q := by
  obtain ⟨hpr, hpa, hpall⟩ := hp
  obtain ⟨hqr, hqa, hqall⟩ := hq
  rcases Nat.lt_trichotomy p q with hpq | hpq | hpq
  · have := hpall q hpq hqr
    omega
  · exact hpq
  · have := hqall p hpq hpr
    omega

/-- Where an interval starts, none of the same `lcp` is open. -/
theorem not_openAt_of_startsAt {lb : Nat} (hs : StartsAt a r lb) {o : OpenInterval} (ho : OpenAt a r o) :
    o.lcp ≠ a r := by
  intro heq
  obtain ⟨hlr, hlt, hall⟩ := hs
  obtain ⟨hz, -⟩ | ⟨-, hleft, hge, x, hox, hxr, hax⟩ := ho
  · omega
  · rcases Nat.lt_trichotomy x lb with h | rfl | h
    · have := hge lb (by omega) hlr
      omega
    · omega
    · have := hall x h hxr
      omega

/-- The open intervals at the next rank: those the entry `a r` does not close, and one that starts there. -/
theorem openAt_succ_iff (hr : 1 ≤ r) (o : OpenInterval) :
    OpenAt a (r + 1) o ↔ (OpenAt a r o ∧ o.lcp ≤ a r) ∨ (o.lcp = a r ∧ StartsAt a r o.lb) := by
  constructor
  · rintro (⟨hl, hlb⟩ | ⟨hl, hleft, hge, x, hox, hxr, hax⟩)
    · exact .inl ⟨.inl ⟨hl, hlb⟩, by omega⟩
    · have hle : o.lcp ≤ a r := hge r (by omega) (by omega)
      have hge' : ∀ y, o.lb < y → y < r → o.lcp ≤ a y := fun y h h' => hge y h (by omega)
      by_cases hopen : ∃ y, o.lb < y ∧ y < r ∧ a y = o.lcp
      · exact .inl ⟨.inr ⟨hl, hleft, hge', hopen⟩, hle⟩
      · have hx : x = r := by
          by_contra hne
          exact hopen ⟨x, hox, by omega, hax⟩
        subst hx
        refine .inr ⟨hax.symm, hox, hax ▸ hleft, fun y h h' => ?_⟩
        exact hax ▸ lt_of_le_of_ne (hge' y h h') (fun heq => hopen ⟨y, h, h', heq.symm⟩)
  · rintro (⟨⟨hl, hlb⟩ | ⟨hl, hleft, hge, x, hox, hxr, hax⟩, hle⟩ | ⟨heq, hlr, hlt, hall⟩)
    · exact .inl ⟨hl, hlb⟩
    · refine .inr ⟨hl, hleft, fun y h h' => ?_, x, hox, by omega, hax⟩
      obtain hyr | rfl := Nat.lt_succ_iff_lt_or_eq.1 h'
      · exact hge y h hyr
      · exact hle
    · refine .inr ⟨by omega, by omega, fun y h h' => ?_, r, hlr, by omega, heq.symm⟩
      obtain hyr | rfl := Nat.lt_succ_iff_lt_or_eq.1 h'
      · exact heq ▸ (hall y h hyr).le
      · exact heq.le

/-- When no interval of `lcp` `a r` is open, one starts at the left bound that closing hands on. -/
theorem startsAt_leftBound {os : List OpenInterval} (h0 : a 0 = 0) (hr : 1 ≤ r) (hst : StackAt a r os)
    (hnone : ∀ o ∈ os, o.lcp ≠ a r) : StartsAt a r (closeIntervals (a r) (r - 1) (r - 1) os).2.1 := by
  obtain ⟨hlb, hkept⟩ | ⟨o, ho, hclosed, hlb, hleast⟩ :=
    closeIntervals_leftBound (a r) (r - 1) hst.descends (r - 1)
  · obtain ⟨p, hp, hpl⟩ := exists_openAt h0 (r := r) (y := r - 1) (by omega) (fun x h h' => by omega)
    have hpos := (hst.mem_iff p).2 hp
    have hle := hkept p hpos
    have hne := hnone p hpos
    rw [hlb]
    exact ⟨by omega, by omega, fun x h h' => by omega⟩
  · obtain ⟨hz, -⟩ | ⟨-, hleft, hge, x, hox, hxr, -⟩ := (hst.mem_iff o).1 ho
    · omega
    · have hlater : ∀ y, o.lb < y → y < r → a o.lb ≤ a y := fun y h h' => hleft.le.trans (hge y h h')
      obtain ⟨p, hp, hpl⟩ := exists_openAt h0 (r := r) (y := o.lb) (by omega) hlater
      have hpos := (hst.mem_iff p).2 hp
      have hle : p.lcp ≤ a r := by
        by_contra hgt
        have := hleast p hpos (by omega)
        omega
      have hne := hnone p hpos
      rw [hlb]
      exact ⟨by omega, by omega, fun y h h' => hclosed.trans_le (hge y h h')⟩

/-- A step of the pass keeps what the stack holds (R146). -/
theorem stackAt_succ {os : List OpenInterval} (h0 : a 0 = 0) (hr : 1 ≤ r) (hst : StackAt a r os) :
    let c := closeIntervals (a r) (r - 1) (r - 1) os
    StackAt a (r + 1) (openInterval (a r) c.2.1 c.2.2) := by
  intro c
  have hkept : c.2.2 = os.filter (fun o => o.lcp ≤ a r) := closeIntervals_stack _ _ hst.descends _
  have hdesc : Descending c.2.2 := hkept ▸ hst.descends.filter _
  have hmem : ∀ o, o ∈ c.2.2 ↔ OpenAt a r o ∧ o.lcp ≤ a r := by simp [hkept, hst.mem_iff]
  refine ⟨openInterval_descends hdesc _ _, fun o => ?_⟩
  rw [mem_openInterval hdesc, openAt_succ_iff hr, hmem]
  refine or_congr_right ⟨?_, ?_⟩
  · rintro ⟨rfl, hlt⟩
    refine ⟨rfl, startsAt_leftBound h0 hr hst fun p hp heq => ?_⟩
    have := hlt p ((hmem p).2 ⟨(hst.mem_iff p).1 hp, heq.le⟩)
    omega
  · rintro ⟨heq, hs⟩
    have hlb : StartsAt a r c.2.1 :=
      startsAt_leftBound h0 hr hst fun p hp => not_openAt_of_startsAt hs ((hst.mem_iff p).1 hp)
    refine ⟨?_, fun p hp => ?_⟩
    · rw [← heq, ← startsAt_unique hs hlb]
    · obtain ⟨hopen, hle⟩ := (hmem p).1 hp
      exact lt_of_le_of_ne hle (not_openAt_of_startsAt hs hopen)

/-- Before rank 1 only the root is open. -/
theorem stackAt_one (a : Nat → Nat) : StackAt a 1 [⟨0, 0⟩] := by
  refine ⟨by simp, fun o => ?_⟩
  rw [List.mem_singleton]
  constructor
  · rintro rfl
    exact .inl ⟨rfl, rfl⟩
  · rintro (⟨hl, hlb⟩ | ⟨-, -, -, x, hox, hx1, -⟩)
    · cases o
      simp_all
    · omega

end

/-! ### What the pass emits -/

/-- Closing at right bound `rb` keeps the intervals apart: a stack holds no two of the same `lcp`. -/
theorem nodup_map_close {os : List OpenInterval} (hdesc : Descending os) (rb : Nat) :
    (os.map (OpenInterval.closeAt rb)).Nodup := by
  rw [List.Nodup, List.pairwise_map]
  exact hdesc.imp fun hlt heq => hlt.ne' (congrArg Interval.lcp heq)

theorem mem_map_close {os : List OpenInterval} {rb : Nat} {v : Interval} :
    v ∈ os.map (OpenInterval.closeAt rb) ↔ v.rb = rb ∧ (⟨v.lcp, v.lb⟩ : OpenInterval) ∈ os := by
  rw [List.mem_map]
  constructor
  · rintro ⟨o, ho, rfl⟩
    exact ⟨rfl, ho⟩
  · rintro ⟨rfl, hv⟩
    exact ⟨_, hv, rfl⟩

theorem of_drop_eq_cons {lcp ls : List Nat} {r l : Nat} (h : lcp.drop r = l :: ls) :
    r < lcp.length ∧ lcp.getD r 0 = l ∧ lcp.drop (r + 1) = ls := by
  have hlt : r < lcp.length := by
    by_contra hge
    simp [List.drop_of_length_le (Nat.le_of_not_lt hge)] at h
  rw [List.drop_eq_getElem_cons hlt, List.cons.injEq] at h
  exact ⟨hlt, by simp [hlt, h.1], h.2⟩

theorem intervalPass_nil (r : Nat) (os : List OpenInterval) :
    intervalPass r os [] = os.map (OpenInterval.closeAt (r - 1)) := rfl

theorem intervalPass_cons {os : List OpenInterval} (hdesc : Descending os) (r l : Nat) (ls : List Nat) :
    intervalPass r os (l :: ls) =
      (os.filter (fun o => l < o.lcp)).map (OpenInterval.closeAt (r - 1)) ++
        intervalPass (r + 1) (openInterval l (closeIntervals l (r - 1) (r - 1) os).2.1
          (closeIntervals l (r - 1) (r - 1) os).2.2) ls := by
  rw [intervalPass, closeIntervals_emitted l (r - 1) hdesc]

section
variable {lcp : List Nat} (h0 : lcp.getD 0 0 = 0)
include h0

/-- From rank `r` on, the pass emits the Suffix Intervals whose right bound is not before `r - 1`. -/
theorem mem_intervalPass (ls : List Nat) {r : Nat} {os : List OpenInterval} (hr : 1 ≤ r) (hrn : r ≤ lcp.length)
    (hls : lcp.drop r = ls) (hst : StackAt (fun x => lcp.getD x 0) r os) (v : Interval) :
    v ∈ intervalPass r os ls ↔ r ≤ v.rb + 1 ∧ isSuffixInterval lcp v := by
  induction ls generalizing r os with
  | nil =>
    have hn : lcp.length ≤ r := List.drop_eq_nil_iff.1 hls
    rw [intervalPass_nil, mem_map_close, hst.mem_iff, isSuffixInterval_iff]
    constructor
    · rintro ⟨hrb, hopen⟩
      obtain rfl : r = v.rb + 1 := by omega
      exact ⟨le_rfl, by omega, hopen, .inl (by omega)⟩
    · rintro ⟨hle, hrb, hopen, -⟩
      obtain rfl : r = v.rb + 1 := by omega
      exact ⟨rfl, hopen⟩
  | cons l ls ih =>
    obtain ⟨hlt, rfl, hdrop⟩ := of_drop_eq_cons hls
    rw [intervalPass_cons hst.descends, List.mem_append, ih (by omega) hlt hdrop (stackAt_succ h0 hr hst),
      mem_map_close, List.mem_filter, hst.mem_iff, isSuffixInterval_iff]
    simp only [decide_eq_true_eq]
    constructor
    · rintro (⟨hrb, hopen, hclosed⟩ | ⟨hle, hv⟩)
      · obtain rfl : r = v.rb + 1 := by omega
        exact ⟨le_rfl, by omega, hopen, .inr hclosed⟩
      · exact ⟨by omega, hv⟩
    · rintro ⟨hle, hv⟩
      obtain rfl | hlater := Nat.eq_or_lt_of_le hle
      · obtain ⟨-, hopen, hend | hclosed⟩ := hv
        · omega
        · exact .inl ⟨rfl, hopen, hclosed⟩
      · exact .inr ⟨hlater, hv⟩

/-- The pass emits each interval once: what it closes at a rank ends there, what it emits later ends later. -/
theorem nodup_intervalPass (ls : List Nat) {r : Nat} {os : List OpenInterval} (hr : 1 ≤ r) (hrn : r ≤ lcp.length)
    (hls : lcp.drop r = ls) (hst : StackAt (fun x => lcp.getD x 0) r os) : (intervalPass r os ls).Nodup := by
  induction ls generalizing r os with
  | nil => exact nodup_map_close hst.descends _
  | cons l ls ih =>
    obtain ⟨hlt, rfl, hdrop⟩ := of_drop_eq_cons hls
    have hnext := stackAt_succ (a := fun x => lcp.getD x 0) h0 hr hst
    rw [intervalPass_cons hst.descends]
    refine (nodup_map_close (hst.descends.filter _) _).append (ih (by omega) hlt hdrop hnext) ?_
    intro v hclosed hlater
    obtain ⟨hrb, -⟩ := mem_map_close.1 hclosed
    obtain ⟨hle, -⟩ := (mem_intervalPass h0 ls (by omega) hlt hdrop hnext v).1 hlater
    omega

end

theorem mem_intervalsOf_cons (ls : List Nat) (v : Interval) :
    v ∈ intervalsOf (0 :: ls) ↔ isSuffixInterval (0 :: ls) v := by
  rw [intervalsOf, mem_intervalPass (lcp := 0 :: ls) rfl ls le_rfl (by simp) rfl (stackAt_one _)]
  exact and_iff_right (by omega)

theorem nodup_intervalsOf_cons (ls : List Nat) : (intervalsOf (0 :: ls)).Nodup :=
  nodup_intervalPass (lcp := 0 :: ls) rfl ls le_rfl (by simp) rfl (stackAt_one _)

/-! ### The bytes an interval's suffixes share -/

/-- The root included, the entries of an interval after its first are at least its `lcp`. -/
theorem isSuffixInterval_le_lcp {lcp : List Nat} {v : Interval} (hv : isSuffixInterval lcp v) {r : Nat}
    (hlr : v.lb < r) (hrr : r ≤ v.rb) : v.lcp ≤ lcp.getD r 0 := by
  obtain ⟨hl, -, -⟩ | ⟨-, -, -, hall, -⟩ := hv
  · omega
  · exact hall r hlr hrr

/-- Neighbours in `SA` share as many bytes as their entry of `LCP` says. -/
theorem neighbours_share_lcp {w : List Byte} {r i j l : Nat} (hi : (suffixArray w)[r]? = some i)
    (hj : (suffixArray w)[r + 1]? = some j) (hl : l ≤ (lcpOf (sortedSuffixes w)).getD (r + 1) 0) :
    ∀ x, x < l → w[i + x]? = w[j + x]? := by
  intro x hx
  rw [List.getD_eq_getElem?_getD, lcp_of_neighbours hi hj, Option.getD_some] at hl
  have hxc : x < commonPrefix (w.drop i) (w.drop j) := by omega
  simpa using getElem?_eq_of_lt_commonPrefix (w.drop i) (w.drop j) x hxc

/-- Ranks `d` apart share `l` bytes when every entry of `LCP` after the first of them is at least `l` (R148). -/
theorem suffixes_share_bytes {w : List Byte} {r d i j l : Nat}
    (hl : ∀ q, r < q → q ≤ r + d → l ≤ (lcpOf (sortedSuffixes w)).getD q 0)
    (hi : (suffixArray w)[r]? = some i) (hj : (suffixArray w)[r + d]? = some j) :
    ∀ x, x < l → w[i + x]? = w[j + x]? := by
  induction d generalizing j with
  | zero =>
    obtain rfl : i = j := Option.some.inj (hi.symm.trans hj)
    exact fun _ _ => rfl
  | succ d ih =>
    intro x hx
    obtain ⟨hlt, -⟩ := List.getElem?_eq_some_iff.1 hj
    obtain ⟨m, hm⟩ : ∃ m, (suffixArray w)[r + d]? = some m :=
      ⟨_, List.getElem?_eq_getElem (by omega)⟩
    calc w[i + x]? = w[m + x]? := ih (fun q h h' => hl q h (by omega)) hm x hx
      _ = w[j + x]? := neighbours_share_lcp hm hj (hl (r + d + 1) (by omega) (by omega)) x hx

/-- Settles O44: the pass emits the Suffix Intervals, each once, and what neighbours share carries over the whole
interval. -/
theorem intervalsAreComplete : Obligations.IntervalsAreComplete := by
  intro k w hw
  obtain ⟨ls, hlcp⟩ := lcpOf_sortedSuffixes_eq_cons (List.length_pos_iff.2 hw)
  have hmem : ∀ v, v ∈ (k.buildIndex w).ivl ↔ isSuffixInterval (lcpOf (sortedSuffixes w)) v := by
    rw [Work.buildIndex_ivl, hlcp]
    exact mem_intervalsOf_cons ls
  refine ⟨?_, hmem, ?_⟩
  · rw [Work.buildIndex_ivl, hlcp]
    exact nodup_intervalsOf_cons ls
  · intro v hv r r' i j hlr hrr hlr' hrr' hi hj x hx
    have hle : ∀ q, v.lb < q → q ≤ v.rb → v.lcp ≤ (lcpOf (sortedSuffixes w)).getD q 0 :=
      fun q => isSuffixInterval_le_lcp ((hmem v).1 hv)
    rw [Work.buildIndex_sa] at hi hj
    rcases Nat.le_total r r' with h | h
    · obtain ⟨d, rfl⟩ := Nat.exists_eq_add_of_le h
      exact suffixes_share_bytes (fun q h h' => hle q (by omega) (by omega)) hi hj x hx
    · obtain ⟨d, rfl⟩ := Nat.exists_eq_add_of_le h
      exact (suffixes_share_bytes (fun q h h' => hle q (by omega) (by omega)) hj hi x hx).symm

end Sys2Proof.Machine
end

section
/-! The Match Finder (41_match_finder.md): the candidates of a position are the first eight of one list, its frontier,
longest first (R164, R165); what that list holds in terms of the window, and what the match length says of each member
(R168). -/

namespace Sys2Proof.Machine

/-! ### The frontier of a list of earlier suffixes -/

theorem frontier_cons_of_keep {mm best : Nat} {q t : List Byte} (h : mm ≤ matchLen q t ∧ best < matchLen q t)
    (off : Nat) (qs : List (List Byte)) :
    frontier mm t best off (q :: qs) = ⟨matchLen q t, off⟩ :: frontier mm t (matchLen q t) (off + 1) qs := by
  rw [frontier, if_pos h]

theorem frontier_cons_of_drop {mm best : Nat} {q t : List Byte} (h : ¬ (mm ≤ matchLen q t ∧ best < matchLen q t))
    (off : Nat) (qs : List (List Byte)) :
    frontier mm t best off (q :: qs) = frontier mm t best (off + 1) qs := by
  rw [frontier, if_neg h]

/-- The `n` suffixes `f` gives for the offsets from `off` on, nearest first. -/
def suffixesByOffset (f : Nat → List Byte) (off n : Nat) : List (List Byte) := (List.range' off n).map f

theorem suffixesByOffset_succ (f : Nat → List Byte) (off n : Nat) :
    suffixesByOffset f off (n + 1) = f off :: suffixesByOffset f (off + 1) n := rfl

theorem take_suffixesByOffset (f : Nat → List Byte) (off n m : Nat) :
    (suffixesByOffset f off n).take m = suffixesByOffset f off (min m n) := by
  simp only [suffixesByOffset, List.range'_eq_map_range, ← List.map_take, List.take_range]

/-- The match at the offset of `c` has the length of `c`, which the minimum size allows, and it is longer than `best`
and than the match at every offset from `off` on that is nearer. -/
def LongerThanNearer (mm : Nat) (t : List Byte) (f : Nat → List Byte) (best off : Nat) (c : Cand) : Prop :=
  c.len = matchLen (f c.off) t ∧ mm ≤ c.len ∧ best < c.len ∧ ∀ o, off ≤ o → o < c.off → matchLen (f o) t < c.len

section
variable {mm : Nat} {t : List Byte} {f : Nat → List Byte} {best off : Nat} {c : Cand}

/-- At the first offset there is no nearer match to beat. -/
theorem longerThanNearer_first (h : c.off = off) :
    LongerThanNearer mm t f best off c ↔
      (mm ≤ matchLen (f off) t ∧ best < matchLen (f off) t) ∧ c = ⟨matchLen (f off) t, off⟩ := by
  subst h
  constructor
  · rintro ⟨hlen, hmm, hbest, -⟩
    exact ⟨hlen ▸ ⟨hmm, hbest⟩, congrArg (Cand.mk · c.off) hlen⟩
  · rintro ⟨⟨hmm, hbest⟩, hc⟩
    have hlen : c.len = matchLen (f c.off) t := congrArg Cand.len hc
    exact ⟨hlen, by omega, by omega, fun o hle hlt => absurd hle (Nat.not_le_of_lt hlt)⟩

/-- Beyond the first offset, the match there is one more length to beat. -/
theorem longerThanNearer_later (h : off < c.off) :
    LongerThanNearer mm t f best off c ↔
      LongerThanNearer mm t f best (off + 1) c ∧ matchLen (f off) t < c.len := by
  constructor
  · rintro ⟨hlen, hmm, hbest, hnear⟩
    exact ⟨⟨hlen, hmm, hbest, fun o ho => hnear o (by omega)⟩, hnear off le_rfl h⟩
  · rintro ⟨⟨hlen, hmm, hbest, hnear⟩, hfirst⟩
    refine ⟨hlen, hmm, hbest, fun o ho hlt => ?_⟩
    obtain rfl | ho := Nat.eq_or_lt_of_le ho
    · exact hfirst
    · exact hnear o ho hlt

end

/-- The frontier holds the pairs that are long enough and longer than every nearer pair. -/
theorem mem_frontier (mm : Nat) (t : List Byte) (f : Nat → List Byte) (best off n : Nat) (c : Cand) :
    c ∈ frontier mm t best off (suffixesByOffset f off n) ↔
      (off ≤ c.off ∧ c.off < off + n) ∧ LongerThanNearer mm t f best off c := by
  induction n generalizing best off with
  | zero =>
    have hempty : c ∉ frontier mm t best off (suffixesByOffset f off 0) := List.not_mem_nil
    exact iff_of_false hempty (by omega)
  | succ n ih =>
    rw [suffixesByOffset_succ]
    by_cases hkeep : mm ≤ matchLen (f off) t ∧ best < matchLen (f off) t
    · rw [frontier_cons_of_keep hkeep, List.mem_cons, ih]
      constructor
      · rintro (rfl | ⟨⟨hlo, hhi⟩, hlen, hmm, hfirst, hnear⟩)
        · exact ⟨⟨le_rfl, Nat.lt_add_of_pos_right n.succ_pos⟩, (longerThanNearer_first rfl).2 ⟨hkeep, rfl⟩⟩
        · exact ⟨by omega, (longerThanNearer_later hlo).2 ⟨⟨hlen, hmm, by omega, hnear⟩, hfirst⟩⟩
      · rintro ⟨⟨hlo, hhi⟩, hc⟩
        obtain heq | hlt := Nat.eq_or_lt_of_le hlo
        · exact .inl ((longerThanNearer_first heq.symm).1 hc).2
        · obtain ⟨⟨hlen, hmm, -, hnear⟩, hfirst⟩ := (longerThanNearer_later hlt).1 hc
          exact .inr ⟨by omega, hlen, hmm, hfirst, hnear⟩
    · rw [frontier_cons_of_drop hkeep, ih]
      constructor
      · rintro ⟨⟨hlo, hhi⟩, hc⟩
        have hfirst : matchLen (f off) t < c.len := by
          obtain ⟨-, hmm, hbest, -⟩ := hc
          omega
        exact ⟨by omega, (longerThanNearer_later hlo).2 ⟨hc, hfirst⟩⟩
      · rintro ⟨⟨hlo, hhi⟩, hc⟩
        obtain heq | hlt := Nat.eq_or_lt_of_le hlo
        · exact absurd ((longerThanNearer_first heq.symm).1 hc).1 hkeep
        · exact ⟨by omega, ((longerThanNearer_later hlt).1 hc).1⟩

/-- Lengths and offsets rise along the frontier: a kept pair is the length the later ones have to beat. -/
theorem frontier_pairwise (mm : Nat) (t : List Byte) (f : Nat → List Byte) (best off n : Nat) :
    (frontier mm t best off (suffixesByOffset f off n)).Pairwise (fun c d => c.len < d.len ∧ c.off < d.off) := by
  induction n generalizing best off with
  | zero => exact List.Pairwise.nil
  | succ n ih =>
    rw [suffixesByOffset_succ]
    by_cases hkeep : mm ≤ matchLen (f off) t ∧ best < matchLen (f off) t
    · rw [frontier_cons_of_keep hkeep, List.pairwise_cons]
      refine ⟨fun d hd => ?_, ih _ _⟩
      obtain ⟨⟨hoff, -⟩, -, -, hlen, -⟩ := (mem_frontier mm t f _ _ n d).1 hd
      exact ⟨hlen, hoff⟩
    · rw [frontier_cons_of_drop hkeep]
      exact ih _ _

/-! ### The frontier of a position of the window -/

/-- The suffixes before position `p`, nearest first: the one at offset `o` is the suffix at `p - o`. -/
def earlierSuffixes (w : List Byte) (p : Nat) : List (List Byte) := suffixesByOffset (fun o => w.drop (p - o)) 1 p

theorem earlierSuffixes_succ (w : List Byte) (p : Nat) :
    earlierSuffixes w (p + 1) = w.drop p :: earlierSuffixes w p := by
  rw [earlierSuffixes, suffixesByOffset_succ, suffixesByOffset, List.range'_succ_left, List.map_map, earlierSuffixes,
    suffixesByOffset]
  simp [Function.comp_def]

/-- The frontier of position `p`, longest first (R164, R165). -/
def sortedFrontier (mm : Nat) (w : List Byte) (p : Nat) : List Cand :=
  (frontier mm (w.drop p) 0 1 ((earlierSuffixes w p).take Config.maxOffset)).reverse

theorem candidatesAt_earlierSuffixes (mm : Nat) (w : List Byte) (p : Nat) :
    candidatesAt mm (w.drop p) (earlierSuffixes w p) = (sortedFrontier mm w p).take 8 := rfl

theorem sortedFrontier_pairwise (mm : Nat) (w : List Byte) (p : Nat) :
    (sortedFrontier mm w p).Pairwise (fun c d => d.len < c.len ∧ d.off < c.off) := by
  rw [sortedFrontier, List.pairwise_reverse, earlierSuffixes, take_suffixesByOffset]
  exact frontier_pairwise mm _ _ 0 1 _

/-- A pair escapes domination when every nearer match is shorter, valid or not: one that is too short to be valid is
shorter than the pair. -/
theorem not_dominated_iff {w : List Byte} {mm p : Nat} {c : Cand} (hc : validCandidate w mm p c) :
    ¬ dominated w mm p c ↔ ∀ o, 1 ≤ o → o < c.off → matchLen (w.drop (p - o)) (w.drop p) < c.len := by
  obtain ⟨-, hoff, -, hmm⟩ := hc
  constructor
  · intro hdom o ho hlt
    by_contra hge
    have hlong : c.len ≤ matchLen (w.drop (p - o)) (w.drop p) := Nat.le_of_not_lt hge
    have hvalid : validCandidate w mm p ⟨matchLen (w.drop (p - o)) (w.drop p), o⟩ :=
      ⟨ho, hlt.le.trans hoff, rfl, hmm.trans hlong⟩
    exact hdom ⟨_, hvalid, hlt, hlong⟩
  · rintro hnear ⟨d, ⟨hd, -, hlen, -⟩, hlt, hge⟩
    have hshort := hnear d.off hd hlt
    omega

/-- The frontier is the set of valid, not dominated pairs (R163, R164), without the empty match. -/
theorem mem_sortedFrontier (mm : Nat) (w : List Byte) (p : Nat) (c : Cand) :
    c ∈ sortedFrontier mm w p ↔ validCandidate w mm p c ∧ ¬ dominated w mm p c ∧ 1 ≤ c.len := by
  rw [sortedFrontier, List.mem_reverse, earlierSuffixes, take_suffixesByOffset, mem_frontier]
  constructor
  · rintro ⟨⟨hlo, hhi⟩, hlen, hmm, hpos, hnear⟩
    have hvalid : validCandidate w mm p c := ⟨hlo, by omega, hlen, hmm⟩
    exact ⟨hvalid, (not_dominated_iff hvalid).2 hnear, hpos⟩
  · rintro ⟨hvalid, hdom, hpos⟩
    have hnear := (not_dominated_iff hvalid).1 hdom
    obtain ⟨hlo, hhi, hlen, hmm⟩ := hvalid
    exact ⟨⟨hlo, by omega⟩, hlen, hmm, hpos, hnear⟩

/-! ### `FIND_MATCHES` -/

/-- From position `p` on, with the suffixes before `p` collected, the positions after `hist` more get their
candidates. -/
theorem findMatchesFrom_eq (mm : Nat) (w t : List Byte) (hist p : Nat) (ht : w.drop p = t) :
    findMatchesFrom mm hist (earlierSuffixes w p) t =
      (List.range' (p + hist) (t.length - hist)).map (fun q => (sortedFrontier mm w q).take 8) := by
  induction t generalizing p hist with
  | nil => simp [findMatchesFrom]
  | cons b t ih =>
    have hnext : w.drop (p + 1) = t := by rw [← List.drop_drop, ht, List.drop_one, List.tail_cons]
    have hearlier : (b :: t) :: earlierSuffixes w p = earlierSuffixes w (p + 1) := by rw [earlierSuffixes_succ, ht]
    cases hist with
    | zero =>
      have hhere : candidatesAt mm (b :: t) (earlierSuffixes w p) = (sortedFrontier mm w p).take 8 := by
        rw [← ht, candidatesAt_earlierSuffixes]
      rw [findMatchesFrom, hhere, hearlier, ih 0 (p + 1) hnext]
      rfl
    | succ hist =>
      rw [findMatchesFrom, hearlier, ih hist (p + 1) hnext, List.length_cons, Nat.add_sub_add_right,
        Nat.add_right_comm, Nat.add_assoc]

theorem findMatches_eq (mm s : Nat) (w : List Byte) :
    findMatches mm s w = (List.range' s (w.length - s)).map (fun q => (sortedFrontier mm w q).take 8) := by
  have hstart : earlierSuffixes w 0 = [] := rfl
  rw [findMatches, ← hstart, findMatchesFrom_eq mm w w s 0 rfl, Nat.zero_add]

theorem length_findMatches (mm s : Nat) (w : List Byte) : (findMatches mm s w).length = w.length - s := by
  simp [findMatches_eq]

/-- Element `k` is the list of block position `s + k` (R160), the eight longest of its frontier (R165). -/
theorem findMatches_getElem? {mm s k : Nat} {w : List Byte} {cs : List Cand} (h : (findMatches mm s w)[k]? = some cs) :
    s + k < w.length ∧ cs = (sortedFrontier mm w (s + k)).take 8 := by
  have hk : k < w.length - s := by
    rw [← length_findMatches mm s w]
    exact (List.getElem?_eq_some_iff.1 h).1
  rw [findMatches_eq, List.getElem?_map, List.getElem?_range' hk, Option.map_some, Option.some.injEq, Nat.one_mul] at h
  exact ⟨by omega, h.symm⟩

@[simp] theorem Work.findMatches_cand (x : Work) (mm s : Nat) (w : List Byte) :
    (x.findMatches mm s w).cand = Machine.findMatches mm s w := rfl

@[simp] theorem Work.findMatches_nc (x : Work) (mm s : Nat) (w : List Byte) :
    (x.findMatches mm s w).nc = (Machine.findMatches mm s w).map (fun cs => cs.length) := rfl

/-- Settles O46: the list of a position is its frontier, which holds the valid pairs that are not dominated. -/
theorem candidatesAreTheFrontier : Obligations.CandidatesAreTheFrontier := by
  intro x mm s w hmm
  refine ⟨length_findMatches mm s w, fun k cs hcs => ?_⟩
  obtain ⟨-, hlist⟩ := findMatches_getElem? hcs
  refine ⟨sortedFrontier mm w (s + k), fun c => ?_, sortedFrontier_pairwise mm w (s + k), hlist, ?_⟩
  · have hpos : validCandidate w mm (s + k) c → 1 ≤ c.len := fun ⟨_, _, _, hlen⟩ => hmm.trans hlen
    rw [mem_sortedFrontier]
    exact ⟨fun ⟨hvalid, hdom, _⟩ => ⟨hvalid, hdom⟩, fun ⟨hvalid, hdom⟩ => ⟨hvalid, hdom, hpos hvalid⟩⟩
  · rw [Work.findMatches_cand] at hcs
    rw [Work.findMatches_nc, List.getElem?_map, hcs, Option.map_some, hlist, List.length_take]

/-! ### What a match says of the window -/

/-- A match stays in the window, agrees byte for byte, and ends at the cap, at the end of the window or where the bytes
differ (R161, R168). -/
theorem matchLen_drop_spec (w : List Byte) {i j : Nat} (hij : i < j) (hj : j < w.length) :
    let l := matchLen (w.drop i) (w.drop j)
    l ≤ 32767 ∧ j + l ≤ w.length ∧ (∀ x, x < l → w[i + x]? = w[j + x]?) ∧
      (l = 32767 ∨ j + l = w.length ∨ w[i + l]? ≠ w[j + l]?) := by
  intro l
  obtain ⟨-, hend, hsame, hdiffer⟩ := commonPrefix_drop_spec w (hij.trans hj) hj
  have hl : l = min (commonPrefix (w.drop i) (w.drop j)) 32767 := rfl
  refine ⟨by omega, by omega, fun x hx => hsame x (by omega), ?_⟩
  obtain hcap | hcap := Nat.le_total 32767 (commonPrefix (w.drop i) (w.drop j))
  · exact .inl (by omega)
  · rw [min_eq_left hcap] at hl
    rw [← hl] at hend hdiffer
    obtain heq | hlt := Nat.eq_or_lt_of_le hend
    · exact .inr (.inl heq)
    · exact .inr (.inr (hdiffer (by omega) hlt))

/-- Settles O47: a candidate is a valid pair of the frontier, and its length is the match length at its offset. -/
theorem candidatesMatchTheWindow : Obligations.CandidatesMatchTheWindow := by
  intro mm s w k cs hcs
  obtain ⟨hp, rfl⟩ := findMatches_getElem? hcs
  refine ⟨List.length_take_le _ _, (sortedFrontier_pairwise mm w (s + k)).take, fun c hc => ?_⟩
  obtain ⟨⟨hoff, hmax, hlen, hmm⟩, -, hpos⟩ := (mem_sortedFrontier mm w (s + k) c).1 (List.mem_of_mem_take hc)
  obtain ⟨hcap, hend, hsame, hmaximal⟩ := matchLen_drop_spec w (i := s + k - c.off) (by omega) hp
  rw [← hlen] at hcap hend hsame hmaximal
  have hmaxOffset : Config.maxOffset = 65535 := rfl
  exact ⟨hmm, hpos, hend, hcap, hoff, by omega, by omega, hsame, hmaximal⟩

end Sys2Proof.Machine
end

section
/-! `SHRINK` in format version 1, without the Repeat-Offset Optimizer (R187): no phase that runs writes `RO`, `FAV` or
`GCUR`, and the Tokens are a function of the candidates alone, which themselves depend on no working array. -/

namespace Sys2Proof.Machine

/-! ### The phases that leave the optimizer's state -/

@[simp] theorem Work.buildIndex_ro (k : Work) (w : List Byte) : (k.buildIndex w).ro = k.ro := rfl

@[simp] theorem Work.buildIndex_fav (k : Work) (w : List Byte) : (k.buildIndex w).fav = k.fav := rfl

@[simp] theorem Work.buildIndex_gcur (k : Work) (w : List Byte) : (k.buildIndex w).gcur = k.gcur := rfl

@[simp] theorem Work.findMatches_ro (k : Work) (mm s : Nat) (w : List Byte) : (k.findMatches mm s w).ro = k.ro := rfl

@[simp] theorem Work.findMatches_fav (k : Work) (mm s : Nat) (w : List Byte) : (k.findMatches mm s w).fav = k.fav := rfl

@[simp] theorem Work.findMatches_gcur (k : Work) (mm s : Nat) (w : List Byte) :
    (k.findMatches mm s w).gcur = k.gcur := rfl

@[simp] theorem Work.parse_ro (k : Work) (v2 fav : Bool) (s : Nat) : (k.parse v2 fav s).ro = k.ro := rfl

@[simp] theorem Work.parse_fav (k : Work) (v2 fav : Bool) (s : Nat) : (k.parse v2 fav s).fav = k.fav := rfl

@[simp] theorem Work.parse_gcur (k : Work) (v2 fav : Bool) (s : Nat) : (k.parse v2 fav s).gcur = k.gcur := rfl

/-! ### The Tokens of V1 -/

/-- The Tokens `PARSE` writes in V1: every candidate is priced without a favored slot, and no repeat flag is set. -/
def v1Tokens (fav : Bool) (s : Nat) (cand : List (List Cand)) : List Token :=
  mergeSteps (walk none 0 s ((parseCosts false fav (slottedCands false cand [])).zip cand))

/-- `PARSE` does not read `RO` in V1: its Tokens depend on the candidates alone. -/
@[simp] theorem Work.parse_v1_tok (k : Work) (fav : Bool) (s : Nat) :
    (k.parse false fav s).tok = v1Tokens fav s k.cand := rfl

/-- The Token sequence before R217 has no flag set. -/
theorem rep_eq_false_of_mem_mergeSteps {steps : List ParseStep} {off len : Nat} {rep : Bool}
    (h : .mtch off len rep ∈ mergeSteps steps) : rep = false := by
  fun_induction mergeSteps steps with
  | case1 => cases h
  | case2 p off' len' steps ih =>
    obtain heq | hmem := List.mem_cons.1 h
    · cases heq
      rfl
    · exact ih hmem
  | case3 p steps p' n ts hts ih =>
    obtain heq | hmem := List.mem_cons.1 h
    · cases heq
    · exact ih (hts ▸ List.mem_cons_of_mem _ hmem)
  | case4 p steps hts ih =>
    obtain heq | hmem := List.mem_cons.1 h
    · cases heq
    · exact ih hmem

/-! ### The phases of `SHRINK` in V1 -/

/-- The working arrays after the three phases before `ENCODE` in V1. -/
def Work.v1Phases (k : Work) (c : Ctx) (w : List Byte) (hist : Nat) : Work :=
  ((k.buildIndex w).findMatches c.minmatch hist w).parse false c.favor hist

/-- In V1 the optimizer is skipped (R187), and `ENCODE` writes its own two registers. -/
theorem compress_of_v1 {c : Ctx} (hfmt : c.fmt = 1#2) (k : Work) (w : List Byte) (hist : Nat) :
    compress c k w hist =
      let k3 := k.v1Phases c w hist
      let e := encodeTokens false c.raw w k3.tok
      ({ k3 with eop := e.out.length, enib := e.nib }, e.out) := by
  have hv1 : (c.fmt == 2#2) = false := by rw [hfmt]; rfl
  simp only [compress, hv1]
  rfl

section
variable {c : Ctx} (hfmt : c.fmt = 1#2) (k : Work) (w : List Byte) (hist : Nat)
include hfmt

theorem compress_v1_ro : (compress c k w hist).1.ro = k.ro := by
  simp [compress_of_v1 hfmt, Work.v1Phases]

theorem compress_v1_fav : (compress c k w hist).1.fav = k.fav := by
  simp [compress_of_v1 hfmt, Work.v1Phases]

theorem compress_v1_gcur : (compress c k w hist).1.gcur = k.gcur := by
  simp [compress_of_v1 hfmt, Work.v1Phases]

/-- The Tokens depend on the window, the history and the context; no working array of before is read. -/
theorem compress_v1_tok :
    (compress c k w hist).1.tok = v1Tokens c.favor hist (findMatches c.minmatch hist w) := by
  simp [compress_of_v1 hfmt, Work.v1Phases]

/-- The block is the encoding of those Tokens. -/
theorem compress_v1_out :
    (compress c k w hist).2 =
      (encodeTokens false c.raw w (v1Tokens c.favor hist (findMatches c.minmatch hist w))).out := by
  simp [compress_of_v1 hfmt, Work.v1Phases]

end

/-- Settles O56: the phases of V1 keep `RO`, `FAV` and `GCUR`; their Tokens and block are functions in which the working
arrays do not occur; and merging the steps sets no flag. -/
theorem noRepeatOptimizerInV1 : Obligations.NoRepeatOptimizerInV1 := by
  intro c k w hist hfmt
  refine ⟨compress_v1_ro hfmt k w hist, compress_v1_fav hfmt k w hist, compress_v1_gcur hfmt k w hist,
    fun ro fav gcur => ⟨?_, ?_⟩, fun off len hmem => ?_⟩
  · rw [compress_v1_tok hfmt, compress_v1_tok hfmt]
  · rw [compress_v1_out hfmt, compress_v1_out hfmt]
  · rw [compress_v1_tok hfmt] at hmem
    exact Bool.noConfusion (rep_eq_false_of_mem_mergeSteps hmem)

end Sys2Proof.Machine
end

section
/-! The cost model of a header (R202 to R204): the tables of the offset bits and of the match-extension bits, and the
offset part of a header by format and slot. -/

namespace Sys2Proof.Machine

/-! ### The tables -/

theorem offBits_v1_table (off : Nat) :
    (off ≤ 256 → offBits false off = 8) ∧ (257 ≤ off → offBits false off = 16) := by
  have heq : offBits false off = if off ≤ 256 then 8 else 16 := rfl
  split_ifs at heq <;> omega

theorem offBits_v2_table (off : Nat) :
    (off ≤ 32 → offBits true off = 4) ∧ (33 ≤ off → off ≤ 512 → offBits true off = 8) ∧
      (513 ≤ off → off ≤ 8704 → offBits true off = 12) ∧ (8705 ≤ off → offBits true off = 16) := by
  have heq : offBits true off = if off ≤ 32 then 4 else if off ≤ 512 then 8 else if off ≤ 8704 then 12 else 16 := rfl
  split_ifs at heq <;> omega

theorem matchExtBits_v1_table (len : Nat) :
    (len ≤ 17 → matchExtBits false len = 0) ∧ (18 ≤ len → len ≤ 255 → matchExtBits false len = 8) ∧
      (256 ≤ len → len ≤ 511 → matchExtBits false len = 16) ∧ (512 ≤ len → matchExtBits false len = 24) := by
  have heq : matchExtBits false len = if len ≤ 17 then 0 else if len ≤ 255 then 8 else if len ≤ 511 then 16 else 24 := rfl
  split_ifs at heq <;> omega

theorem matchExtBits_v2_table (len : Nat) :
    (len ≤ 8 → matchExtBits true len = 0) ∧ (9 ≤ len → len ≤ 23 → matchExtBits true len = 4) ∧
      (24 ≤ len → len ≤ 255 → matchExtBits true len = 12) ∧ (256 ≤ len → matchExtBits true len = 28) := by
  have heq : matchExtBits true len = if len ≤ 8 then 0 else if len ≤ 23 then 4 else if len ≤ 255 then 12 else 28 := rfl
  split_ifs at heq <;> omega

/-! ### The header cost -/

theorem headerCost_eq (v2 : Bool) (c : Cand) (slot : Option Nat) :
    headerCost v2 c slot = 8 + offsetCost v2 c.off slot + matchExtBits v2 c.len := rfl

@[simp] theorem offsetCost_v1 (off : Nat) (slot : Option Nat) : offsetCost false off slot = offBits false off := rfl

@[simp] theorem offsetCost_none (off : Nat) : offsetCost true off none = offBits true off := rfl

@[simp] theorem offsetCost_hot (off : Nat) : offsetCost true off (some 0) = 0 := rfl

@[simp] theorem offsetCost_warm (off k : Nat) : offsetCost true off (some (k + 1)) = offBits true off - 1 := rfl

/-- Every offset field has at least four bits, so the nudge of a warm slot is never cut off at zero. -/
theorem offBits_bounds (v2 : Bool) (off : Nat) : 4 ≤ offBits v2 off ∧ offBits v2 off ≤ 16 := by
  cases v2 with
  | false =>
    obtain ⟨hshort, hlong⟩ := offBits_v1_table off
    omega
  | true =>
    obtain ⟨h4, h8, h12, h16⟩ := offBits_v2_table off
    omega

theorem matchExtBits_le (v2 : Bool) (len : Nat) : matchExtBits v2 len ≤ 28 := by
  cases v2 with
  | false =>
    obtain ⟨h0, h8, h16, h24⟩ := matchExtBits_v1_table len
    omega
  | true =>
    obtain ⟨h0, h4, h12, h28⟩ := matchExtBits_v2_table len
    omega

theorem offsetCost_le (v2 : Bool) (off : Nat) (slot : Option Nat) : offsetCost v2 off slot ≤ 16 := by
  obtain ⟨-, hmax⟩ := offBits_bounds v2 off
  match v2, slot with
  | false, _ => simpa using hmax
  | true, none => simpa using hmax
  | true, some 0 => simp
  | true, some (k + 1) =>
    rw [offsetCost_warm]
    omega

/-- Settles O53: the tables by their ranges, the header cost slot by slot, and its bounds from those of its two fields. -/
theorem headerCostBounds : Obligations.HeaderCostBounds := by
  refine ⟨fun off => ?_, fun len => ?_, fun v2 c slot k => ⟨rfl, rfl, ?_, ?_, ?_, ?_⟩⟩
  · obtain ⟨hshort, hlong⟩ := offBits_v1_table off
    exact ⟨hshort, hlong, offBits_v2_table off⟩
  · obtain ⟨h0, h8, h16, h24⟩ := matchExtBits_v1_table len
    exact ⟨h0, h8, h16, h24, matchExtBits_v2_table len⟩
  · rw [headerCost_eq, offsetCost_hot, Nat.add_zero]
  · have hfield := offBits_bounds true c.off
    rw [headerCost_eq, offsetCost_warm]
    omega
  · rw [headerCost_eq, Nat.add_assoc]
    exact Nat.le_add_right _ _
  · have hoff := offsetCost_le v2 c.off slot
    have hext := matchExtBits_le v2 c.len
    rw [headerCost_eq]
    omega

end Sys2Proof.Machine
end

section
/-! The walk of a `SHRINK` (R211): whatever the costs, its steps tile the block and each match repeats bytes of the window,
by what the Match Finder says of its candidates (R168). The Tokens are a function of these steps (R216, R217). -/

namespace Sys2Proof.Machine

/-! ### The Tokens as a function of the window, the history and the context -/

/-- The costs `PARSE` writes: in V2 over the candidates with the slots of `ASSIGN_REP_SLOTS`, which V1 does not read. -/
def blockCosts (c : Ctx) (w : List Byte) (hist : Nat) : List PosCost :=
  let v2 := c.fmt == 2#2
  let cand := findMatches c.minmatch hist w
  parseCosts v2 c.favor (slottedCands v2 cand (repPassFrom hist [0, 0, 0, 0] hist cand).ro)

/-- The steps of the walk of a `SHRINK` (R211). -/
def blockSteps (c : Ctx) (w : List Byte) (hist : Nat) : List ParseStep :=
  walk none 0 hist ((blockCosts c w hist).zip (findMatches c.minmatch hist w))

theorem compress_tok_v2 {c : Ctx} (hfmt : c.fmt = 2#2) (k : Work) (w : List Byte) (hist : Nat) :
    (compress c k w hist).1.tok = markRepeats 0 (mergeSteps (blockSteps c w hist)) := by
  have hv2 : (c.fmt == 2#2) = true := by rw [hfmt]; rfl
  simp only [compress, blockSteps, blockCosts, hv2]
  rfl

theorem compress_tok_v1 {c : Ctx} (hfmt : c.fmt ≠ 2#2) (k : Work) (w : List Byte) (hist : Nat) :
    (compress c k w hist).1.tok = mergeSteps (blockSteps c w hist) := by
  have hv1 : (c.fmt == 2#2) = false := beq_false_of_ne hfmt
  simp only [compress, blockSteps, blockCosts, hv1]
  rfl

/-! ### One cost per block position -/

theorem length_repPassFrom_ro (p : Nat) (fav : List Nat) (gcur : Nat) (cands : List (List Cand)) :
    (repPassFrom p fav gcur cands).ro.length = cands.length := by
  induction cands generalizing p fav gcur with
  | nil => rfl
  | cons cs cands ih => simp [repPassFrom, ih]

theorem length_slottedCands (v2 : Bool) {cand : List (List Cand)} {ro : List (List RepAnn)}
    (h : ro.length = cand.length) : (slottedCands v2 cand ro).length = cand.length := by
  cases v2 <;> simp [slottedCands, h]

theorem length_parseCosts (v2 fav : Bool) (cands : List (List (Cand × Option Nat))) :
    (parseCosts v2 fav cands).length = cands.length := by
  induction cands with
  | nil => rfl
  | cons cs cands ih => simp [parseCosts, ih]

theorem length_blockCosts (c : Ctx) (w : List Byte) (hist : Nat) :
    (blockCosts c w hist).length = w.length - hist := by
  rw [blockCosts, length_parseCosts, length_slottedCands _ (length_repPassFrom_ro _ _ _ _), length_findMatches]

/-! ### The steps tile the block -/

/-- The `len` bytes of the window at `p` repeat those `off` bytes back (R168). -/
structure MatchAt (w : List Byte) (p off len : Nat) : Prop where
  off_pos : 1 ≤ off
  off_le : off ≤ p
  len_pos : 1 ≤ len
  fits : p + len ≤ w.length
  same : ∀ i, i < len → w[p - off + i]? = w[p + i]?

/-- The steps cover the window from position `p` to its end without gap or overlap, and each match repeats bytes of the
window. -/
inductive Tiles (w : List Byte) : Nat → List ParseStep → Prop where
  | done : Tiles w w.length []
  | lit {p : Nat} {steps : List ParseStep} (rest : Tiles w (p + 1) steps) : Tiles w p (.lit p :: steps)
  | mtch {p off len : Nat} {steps : List ParseStep} (here : MatchAt w p off len) (rest : Tiles w (p + len) steps) :
    Tiles w p (.mtch p off len :: steps)

theorem findMatches_matchAt {mm s k : Nat} {w : List Byte} {cs : List Cand} (hcs : (findMatches mm s w)[k]? = some cs)
    {c : Cand} (hc : c ∈ cs) : MatchAt w (s + k) c.off c.len := by
  obtain ⟨-, -, hcand⟩ := candidatesMatchTheWindow mm s w k cs hcs
  obtain ⟨-, hpos, hfits, -, hoff, hback, -, hsame, -⟩ := hcand c hc
  exact ⟨hoff, hback, hpos, hfits, hsame⟩

theorem mem_of_chosen {c : PosCost} {cs : List Cand} {m : Cand} (h : chosen c cs = some m) : m ∈ cs := by
  cases hj : c.j with
  | none => simp [chosen, hj] at h
  | some j => exact List.mem_of_getElem? (i := j) (by simpa [chosen, hj] using h)

/-- At a position that is not inside a match, the walk goes one literal or one candidate of that position forward. -/
theorem walk_cons (prev : Option StepKind) (p : Nat) (c : PosCost × List Cand) (rest : List (PosCost × List Cand)) :
    walk prev 0 p (c :: rest) = .lit p :: walk (some .literal) 0 (p + 1) rest ∨
      ∃ m ∈ c.2, walk prev 0 p (c :: rest) = .mtch p m.off m.len :: walk (some .matched) (m.len - 1) (p + 1) rest := by
  cases hlit : takesLit prev c.1 with
  | true => exact .inl (by simp [walk, hlit])
  | false =>
    cases hm : chosen c.1 c.2 with
    | none => exact .inl (by simp [walk, hm])
    | some m => exact .inr ⟨m, mem_of_chosen hm, by simp [walk, hlit, hm]⟩

/-- The walk from `p` over positions up to the end of the window, `skip` of them inside the match before, tiles what
follows them. -/
theorem tiles_walk {w : List Byte} (cells : List (PosCost × List Cand)) (prev : Option StepKind) {skip p : Nat}
    (hend : p + cells.length = w.length) (hskip : skip ≤ cells.length)
    (hcells : ∀ (k : Nat) (c : PosCost × List Cand), cells[k]? = some c → ∀ m ∈ c.2, MatchAt w (p + k) m.off m.len) :
    Tiles w (p + skip) (walk prev skip p cells) := by
  induction cells generalizing prev skip p with
  | nil =>
    obtain rfl : skip = 0 := Nat.le_zero.1 hskip
    obtain rfl : p = w.length := hend
    exact Tiles.done
  | cons c cells ih =>
    rw [List.length_cons] at hend hskip
    have hrest : ∀ (prev : Option StepKind) {skip : Nat}, skip ≤ cells.length →
        Tiles w (p + 1 + skip) (walk prev skip (p + 1) cells) := by
      intro prev skip hskip
      refine ih prev (by omega) hskip fun k d hd => ?_
      simpa only [Nat.add_assoc, Nat.add_comm 1 k] using hcells (k + 1) d (by simpa using hd)
    cases skip with
    | succ skip =>
      rw [show p + (skip + 1) = p + 1 + skip by omega, walk]
      exact hrest prev (Nat.le_of_succ_le_succ hskip)
    | zero =>
      obtain hlit | ⟨m, hm, hmtch⟩ := walk_cons prev p c cells
      · rw [hlit]
        exact .lit (hrest _ (Nat.zero_le _))
      · have hhere : MatchAt w p m.off m.len := hcells 0 c rfl m hm
        have hpos := hhere.len_pos
        have hfits := hhere.fits
        have hnext := hrest (some .matched) (skip := m.len - 1) (by omega)
        rw [show p + 1 + (m.len - 1) = p + m.len by omega] at hnext
        rw [hmtch]
        exact .mtch hhere hnext

theorem tiles_blockSteps (c : Ctx) {w : List Byte} {hist : Nat} (hhist : hist ≤ w.length) :
    Tiles w hist (blockSteps c w hist) := by
  refine tiles_walk _ none ?_ (Nat.zero_le _) fun k d hd m hm => ?_
  · rw [List.length_zip, length_blockCosts, length_findMatches, Nat.min_self]
    omega
  · obtain ⟨-, hcand⟩ := List.getElem?_zip_eq_some.1 hd
    exact findMatches_matchAt hcand hm

end Sys2Proof.Machine
end

section
/-! The Token sequence of a `SHRINK` (R216, R217, R219): merging the literals of steps that tile the block gives Tokens
that replay to the window, marking the repeats changes no offset and no length, and each flag compares an offset with the
one before it. -/

namespace Sys2Proof.Machine

/-! ### Merging literals -/

/-- A literal step before others lengthens the literal Token they start with, or makes one of its own (R216). -/
theorem mergeSteps_lit_cons (p : Nat) (steps : List ParseStep) :
    (∃ a n ts, mergeSteps steps = .lit a n :: ts ∧ mergeSteps (.lit p :: steps) = .lit p (n + 1) :: ts) ∨
      mergeSteps (.lit p :: steps) = .lit p 1 :: mergeSteps steps := by
  cases h : mergeSteps steps with
  | nil => exact .inr (by simp [mergeSteps, h])
  | cons t ts =>
    cases t with
    | lit a n => exact .inl ⟨a, n, ts, rfl, by simp [mergeSteps, h]⟩
    | mtch off len rep => exact .inr (by simp [mergeSteps, h])

theorem Tiles.start_of_lit {w : List Byte} {p : Nat} {steps : List ParseStep} (h : Tiles w p steps) {a n : Nat}
    {ts : List Token} (hts : mergeSteps steps = .lit a n :: ts) : a = p := by
  cases h with
  | done => cases hts
  | mtch => cases hts
  | lit rest =>
    obtain ⟨_, _, _, -, hmerge⟩ | hmerge := mergeSteps_lit_cons p _
    all_goals
      rw [hmerge] at hts
      cases hts
      rfl

theorem exists_step_of_mem_mergeSteps {steps : List ParseStep} {off len : Nat} {rep : Bool}
    (h : .mtch off len rep ∈ mergeSteps steps) : ∃ p, ParseStep.mtch p off len ∈ steps := by
  induction steps with
  | nil => cases h
  | cons step steps ih =>
    have hlater : .mtch off len rep ∈ mergeSteps steps → ∃ p, ParseStep.mtch p off len ∈ step :: steps := fun hmem =>
      (ih hmem).imp fun _ => List.mem_cons_of_mem _
    cases step with
    | mtch p off' len' =>
      obtain heq | hmem := List.mem_cons.1 h
      · cases heq
        exact ⟨p, List.mem_cons_self⟩
      · exact hlater hmem
    | lit p =>
      obtain ⟨a, n, ts, hts, hmerge⟩ | hmerge := mergeSteps_lit_cons p steps
      · rw [hmerge] at h
        exact hlater (hts ▸ List.mem_cons_of_mem _ ((List.mem_cons.1 h).resolve_left nofun))
      · rw [hmerge] at h
        exact hlater ((List.mem_cons.1 h).resolve_left nofun)

/-! ### The replay -/

theorem replay_lit_take (w : List Byte) (p n : Nat) (ts : List Token) :
    replay w (w.take p) (.lit p n :: ts) = replay w (w.take (p + n)) ts := by
  rw [replay, List.take_add]

theorem MatchAt.byte {w : List Byte} {p off len : Nat} (h : MatchAt w p off (len + 1)) :
    w.take p ++ [(w.take p).getD ((w.take p).length - off) 0#8] = w.take (p + 1) := by
  obtain ⟨hoff, hback, -, hfits, hsame⟩ := h
  have hp : p < w.length := by omega
  have hlen : (w.take p).length = p := List.length_take_of_le hp.le
  have hbyte : w[p - off]? = some w[p] := (hsame 0 (by omega)).trans (List.getElem?_eq_getElem hp)
  rw [hlen, List.getD_eq_getElem?_getD, List.getElem?_take_of_lt (by omega), hbyte, Option.getD_some,
    List.take_concat_get' w p hp]

theorem MatchAt.tail {w : List Byte} {p off len : Nat} (h : MatchAt w p off (len + 2)) :
    MatchAt w (p + 1) off (len + 1) := by
  obtain ⟨hoff, hback, -, hfits, hsame⟩ := h
  refine ⟨hoff, by omega, by omega, by omega, fun i hi => ?_⟩
  have hi' := hsame (i + 1) (by omega)
  rwa [show p - off + (i + 1) = p + 1 - off + i by omega, show p + (i + 1) = p + 1 + i by omega] at hi'

/-- Copying a match byte by byte onto the window's first `p` bytes gives its first `p + len` (R308). -/
theorem copyBack_take {w : List Byte} {p off len : Nat} (h : MatchAt w p off (len + 1)) :
    copyBack off (len + 1) (w.take p) = w.take (p + (len + 1)) := by
  induction len generalizing p with
  | zero => rw [copyBack, h.byte, copyBack]
  | succ len ih => rw [copyBack, h.byte, ih h.tail, Nat.add_right_comm, Nat.add_assoc]

/-- Steps that tile the window from `p` on complete its first `p` bytes. -/
theorem Tiles.replay_mergeSteps {w : List Byte} {p : Nat} {steps : List ParseStep} (h : Tiles w p steps) :
    replay w (w.take p) (mergeSteps steps) = w := by
  induction h with
  | done => rw [mergeSteps, replay, List.take_length]
  | @lit p steps rest ih =>
    obtain ⟨a, n, ts, hts, hmerge⟩ | hmerge := mergeSteps_lit_cons p steps
    · obtain rfl := rest.start_of_lit hts
      rw [hts, replay_lit_take] at ih
      rw [hmerge, replay_lit_take, Nat.add_comm n, ← Nat.add_assoc, ih]
    · rw [hmerge, replay_lit_take, ih]
  | @mtch p off len steps here rest ih =>
    obtain ⟨n, rfl⟩ := Nat.exists_eq_add_one.2 here.len_pos
    rw [mergeSteps, replay, copyBack_take here, ih]

theorem replay_markRepeats (w out : List Byte) (e : Nat) (ts : List Token) :
    replay w out (markRepeats e ts) = replay w out ts := by
  induction ts generalizing e out with
  | nil => rfl
  | cons t ts ih => cases t <;> exact ih _ _

/-- Settles O54: the steps of the walk tile the block, and the repeat flags play no part in the replay. -/
theorem tokensReconstructTheBlock : Obligations.TokensReconstructTheBlock := by
  intro c k w hist hhist
  have hmerged := (tiles_blockSteps c hhist).replay_mergeSteps
  by_cases hfmt : c.fmt = 2#2
  · rw [compress_tok_v2 hfmt, replay_markRepeats, hmerged]
  · rw [compress_tok_v1 hfmt, hmerged]

/-! ### The repeat flags -/

/-- The flag of a marked match says whether its offset is the last one before it (R217). -/
theorem rep_iff_of_markRepeats {e : Nat} {ts a b : List Token} {off len : Nat} {rep : Bool}
    (h : markRepeats e ts = a ++ .mtch off len rep :: b) : rep = true ↔ lastOffset e a = off := by
  induction ts generalizing e a with
  | nil => simp [markRepeats] at h
  | cons t ts ih =>
    cases a with
    | nil =>
      cases t with
      | lit => cases h
      | mtch off' len' rep' =>
        obtain ⟨rfl, -, rfl⟩ : off' = off ∧ len' = len ∧ decide (off' = e) = rep := by
          simpa [markRepeats] using (List.cons.inj h).1
        rw [decide_eq_true_iff, lastOffset, eq_comm]
    | cons u a =>
      cases t with
      | lit =>
        obtain ⟨rfl, htail⟩ := List.cons.inj h
        exact ih (a := a) htail
      | mtch =>
        obtain ⟨rfl, htail⟩ := List.cons.inj h
        exact ih (a := a) htail

theorem mem_of_mem_markRepeats {e : Nat} {ts : List Token} {off len : Nat} {rep : Bool}
    (h : .mtch off len rep ∈ markRepeats e ts) : ∃ rep', .mtch off len rep' ∈ ts := by
  induction ts generalizing e with
  | nil => cases h
  | cons t ts ih =>
    have hlater : ∀ {e'}, .mtch off len rep ∈ markRepeats e' ts → ∃ rep', .mtch off len rep' ∈ t :: ts := fun hmem =>
      (ih hmem).imp fun _ => List.mem_cons_of_mem _
    cases t with
    | lit => exact hlater ((List.mem_cons.1 h).resolve_left nofun)
    | mtch off' len' rep' =>
      obtain heq | hmem := List.mem_cons.1 h
      · cases heq
        exact ⟨rep', List.mem_cons_self⟩
      · exact hlater hmem

theorem Tiles.off_pos {w : List Byte} {p : Nat} {steps : List ParseStep} (h : Tiles w p steps) {q off len : Nat}
    (hstep : ParseStep.mtch q off len ∈ steps) : 1 ≤ off := by
  induction h with
  | done => cases hstep
  | lit rest ih => exact ih ((List.mem_cons.1 hstep).resolve_left nofun)
  | mtch here rest ih =>
    obtain heq | hmem := List.mem_cons.1 hstep
    · cases heq
      exact here.off_pos
    · exact ih hmem

/-- A history longer than the window leaves no block, and no step. -/
theorem blockSteps_of_no_block (c : Ctx) {w : List Byte} {hist : Nat} (h : w.length ≤ hist) :
    blockSteps c w hist = [] := by
  have hcosts : blockCosts c w hist = [] :=
    List.eq_nil_of_length_eq_zero (by rw [length_blockCosts, Nat.sub_eq_zero_of_le h])
  rw [blockSteps, hcosts, List.zip_nil_left, walk]

theorem blockSteps_off_pos {c : Ctx} {w : List Byte} {hist p off len : Nat}
    (h : ParseStep.mtch p off len ∈ blockSteps c w hist) : 1 ≤ off := by
  obtain hhist | hhist := Nat.le_total hist w.length
  · exact (tiles_blockSteps c hhist).off_pos h
  · rw [blockSteps_of_no_block c hhist] at h
    cases h

/-- Settles O55: merging sets no flag, V2 marks each match by the offset before it, and every offset is that of a step. -/
theorem repeatFlagsFollowTheOffsets : Obligations.RepeatFlagsFollowTheOffsets := by
  intro c k w hist a b off len rep htok
  have hmem : Token.mtch off len rep ∈ (compress c k w hist).1.tok := htok ▸ List.mem_append_cons_self
  by_cases hfmt : c.fmt = 2#2
  · rw [compress_tok_v2 hfmt] at htok hmem
    obtain ⟨rep', hmerged⟩ := mem_of_mem_markRepeats hmem
    obtain ⟨p, hstep⟩ := exists_step_of_mem_mergeSteps hmerged
    exact ⟨fun hv1 => absurd hfmt hv1, fun _ => rep_iff_of_markRepeats htok, blockSteps_off_pos hstep⟩
  · rw [compress_tok_v1 hfmt] at hmem
    obtain ⟨p, hstep⟩ := exists_step_of_mem_mergeSteps hmem
    exact ⟨fun _ => rep_eq_false_of_mem_mergeSteps hmem, fun hv2 => absurd hv2 hfmt, blockSteps_off_pos hstep⟩

end Sys2Proof.Machine
end

section
/-! The match checks of the Block Decoder (R307): the offset field as the wire holds it, the part of a command that runs
once its literal count or its match length is known, and what an end with `FORMAT_ERROR` leaves unchanged. -/

namespace Sys2Proof.Machine

/-! ### The offset field on the wire -/

@[simp] theorem State.withDec_withDec (s : State) (d e : Dec) : (s.withDec d).withDec e = s.withDec e := rfl

/-- The stream cursor just after an offset field. -/
def State.afterOffset (s : State) (o : WireOffset) : State :=
  s.withDec { s.dec with ip := o.ip, nibh := o.nibh, nibv := o.nibv }

/-- `GetNibble` fetches the nibble the wire holds (R273). -/
theorem State.getNibble_of_wireNibble {s : State} {v q : Nat} {h : Bool} {n : BitVec 4}
    (hw : wireNibble s s.dec.ip = some (v, q, h, n)) :
    ∃ x : BitVec 4, x.toNat = v ∧ s.getNibble = some (x, s.withDec { s.dec with ip := q, nibh := h, nibv := n }) := by
  unfold wireNibble at hw
  split at hw
  case isTrue hbuffered =>
    cases hw
    exact ⟨s.dec.nibv, rfl, by simp [State.getNibble, hbuffered]⟩
  case isFalse hempty =>
    split at hw
    case isTrue hlt =>
      cases hw
      refine ⟨(s.readByte .din s.dec.ip).extractLsb' 4 4, ?_, ?_⟩
      · simp only [BitVec.extractLsb'_toNat, Nat.shiftRight_eq_div_pow]
        omega
      · have hlow : (s.readByte .din s.dec.ip).extractLsb' 0 4 =
            BitVec.ofNat 4 ((s.readByte .din s.dec.ip).toNat % 16) :=
          BitVec.eq_of_toNat_eq (by simp)
        rw [← hlow]
        simp [State.getNibble, hempty, State.getByte_of_lt hlt]
    case isFalse => cases hw

/-- The decoder fetches the offset that the wire holds at `IP` (R284, R285, R295 to R299), for each of the seven forms. -/
theorem State.fetchOffset_of_wireOffset {s : State} {f : OffForm} {o : WireOffset}
    (hw : wireOffset s s.dec.ip f = some o) : s.fetchOffset f = some (o.off, s.afterOffset o) := by
  cases f with
  | o8 =>
    obtain ⟨hlt, ho⟩ := Option.ite_none_right_eq_some.1 hw
    cases ho
    have hoff (b : Byte) : offsetOfStored (0xFF00 + b.toNat) = 256 - b.toNat := by
      rw [offsetOfStored]
      omega
    simp [State.fetchOffset, State.getByte_of_lt hlt, hoff, State.afterOffset]
  | o16 =>
    obtain ⟨hlt, ho⟩ := Option.ite_none_right_eq_some.1 hw
    cases ho
    simp [State.fetchOffset, State.getByte, hlt, Nat.lt_of_succ_lt hlt, State.afterOffset, offsetOfStored]
  | off5 z =>
    simp only [wireOffset] at hw
    split at hw
    · rename_i v q h n hnibble
      cases hw
      obtain ⟨x, rfl, hx⟩ := State.getNibble_of_wireNibble hnibble
      have hoff : offsetOfStored (0xFFE0 + 2 * x.toNat + invZ z) = 32 - 2 * x.toNat - (1 - z.toNat) := by
        rw [offsetOfStored, invZ]
        omega
      simp [State.fetchOffset, hx, hoff, State.afterOffset]
    · cases hw
  | off9 z =>
    obtain ⟨hlt, ho⟩ := Option.ite_none_right_eq_some.1 hw
    cases ho
    have hoff (b : Byte) :
        offsetOfStored (0xFE00 + 256 * invZ z + b.toNat) = 512 - 256 * (1 - z.toNat) - b.toNat := by
      rw [offsetOfStored, invZ]
      omega
    simp [State.fetchOffset, State.getByte_of_lt hlt, hoff, State.afterOffset]
  | off13 z =>
    simp only [wireOffset] at hw
    split at hw
    · rename_i v q h n hnibble
      obtain ⟨hlt, ho⟩ := Option.ite_none_right_eq_some.1 hw
      cases ho
      obtain ⟨x, rfl, hx⟩ := State.getNibble_of_wireNibble hnibble
      have hoff (b : Byte) : offsetOfStored ((0xE000 + 512 * x.toNat + 256 * invZ z + b.toNat) - 512) =
          8704 - 512 * x.toNat - 256 * (1 - z.toNat) - b.toNat := by
        rw [offsetOfStored, invZ]
        omega
      simp [State.fetchOffset, hx, State.getByte, hlt, hoff, State.afterOffset]
    · cases hw
  | off16 =>
    obtain ⟨hlt, ho⟩ := Option.ite_none_right_eq_some.1 hw
    cases ho
    simp [State.fetchOffset, State.getByte, hlt, Nat.lt_of_succ_lt hlt, State.afterOffset, offsetOfStored]
  | rep =>
    cases hw
    rfl

/-- The wire is read in `DIN` alone: two states that agree there, on the nibble buffer, on `DINSZ` and on `REP` have the
same offset field. -/
theorem wireOffset_congr {s t : State} (hdin : ∀ a, t.readByte .din a = s.readByte .din a)
    (hsize : t.dec.dinsz = s.dec.dinsz) (hnibh : t.dec.nibh = s.dec.nibh) (hnibv : t.dec.nibv = s.dec.nibv)
    (hrep : t.dec.rep = s.dec.rep) (p : Nat) (f : OffForm) : wireOffset t p f = wireOffset s p f := by
  have hnibble : wireNibble t p = wireNibble s p := by simp [wireNibble, hdin, hsize, hnibh, hnibv]
  cases f <;> simp [wireOffset, hnibble, hdin, hsize, hnibh, hnibv, hrep]

/-- The match length that a match field holds inline (R286, R300). -/
theorem OffForm.inlineMatch_eq (f : OffForm) (m : Nat) : f.inlineMatch m = inlineMatchLength f m := by
  cases f <;> rfl

/-! ### What runs once a count is known -/

/-- The state once the literal count of a command is known: its offset form and match field are held. -/
def State.holding (s : State) (k : LiteralKnown) : State := s.withDec { s.dec with tokForm := k.form, tokM := k.field }

@[simp] theorem State.readByte_holding (s : State) (k : LiteralKnown) (sp : Space) (a : Nat) :
    (s.holding k).readByte sp a = s.readByte sp a := State.readByte_withDec ..

/-- The literal copy writes `DOUT` only. -/
theorem State.readByte_literalsCopied_ne (s : State) (n : Nat) {sp : Space} (h : sp ≠ .dout) (a : Nat) :
    (s.literalsCopied n).readByte sp a = s.readByte sp a := State.readByte_writeBytes_ne s h ..

/-- The literal copy writes `[OP, OP + n)` only. -/
theorem State.readByte_literalsCopied_out (s : State) (n : Nat) {a : Nat} (h : a < s.dec.op ∨ s.dec.op + n ≤ a) :
    (s.literalsCopied n).readByte .dout a = s.readByte .dout a := by
  rw [State.literalsCopied, State.readByte_writeBytes_same, dif_neg]
  rw [State.readBytes_length]
  omega

/-- The state once the literals are copied as well (R280): both cursors stand behind them. -/
def State.atOffset (s : State) (k : LiteralKnown) : State :=
  ((s.holding k).literalsCopied k.nlit).withDec
    { (s.holding k).dec with ip := s.dec.ip + k.nlit, op := s.dec.op + k.nlit }

/-- An instruction that settles a literal count runs the literal part (R274). -/
theorem exec_of_literalKnown {i : Instr} {s : State} {k : LiteralKnown} (hk : literalKnown s.dec i = some k) :
    exec i s = .next ((s.holding k).literalPart k.nlit) := by
  cases i with
  | v1Cmd8 lll m | v1Cmd16 lll m =>
    obtain ⟨hlll, hk⟩ := Option.ite_none_right_eq_some.1 hk
    cases hk
    simp [exec, execV1Cmd8, execV1Cmd16, State.startToken, v1Inline, hlll, State.holding]
  | v2Off5 z ll m | v2Off9 z ll m | v2Off13 z ll m | v2Off16 ll m | v2Rep ll m =>
    obtain ⟨hll, hk⟩ := Option.ite_none_right_eq_some.1 hk
    cases hk
    simp [exec, execV2Off5, execV2Off9, execV2Off13, execV2Off16, execV2Rep, State.startToken, v2Inline, hll,
      State.holding]
  | v1Litx8 b | v1Litx9 b | v1Litx16 v | v2Litxn v | v2Litx8 b | v2Litx16 v =>
    cases hk
    rfl
  | _ => cases hk

/-- A match extension runs the match part (R274), but for the length 0 of `V2.MLX16` (R303). -/
theorem exec_of_extendedMatchLength {i : Instr} {s : State} {len : Nat} (hlen : extendedMatchLength i = some len) :
    exec i s = .next (if i = .v2Mlx16 0#16 then s.formatError else s.matchPart len) := by
  cases i with
  | v2Mlx16 v =>
    cases hlen
    by_cases hv : v = 0#16
    · simp [exec, execV2Mlx16, hv]
    · have hpos : v.toNat ≠ 0 := fun h => hv (BitVec.eq_of_toNat_eq h)
      simp [exec, execV2Mlx16, hv, hpos]
  | v1Mlx8 b | v1Mlx9 c | v1Mlx16 v | v2Mlxn v | v2Mlx8 b =>
    cases hlen
    rw [if_neg nofun]
    rfl
  | _ => cases hlen

/-- With bytes left after the literals, the literal part goes on to the offset field (R274, R275). -/
theorem State.literalPart_holding {s : State} {k : LiteralKnown} (hip : s.dec.ip + k.nlit < s.dec.dinsz)
    (hop : s.dec.op + k.nlit ≤ s.dec.dcap) : (s.holding k).literalPart k.nlit = (s.atOffset k).offsetPart := by
  have hmore : (s.holding k).dec.ip + k.nlit ≠ (s.holding k).dec.dinsz := Nat.ne_of_lt hip
  rw [State.literalPart_of_fits (s := s.holding k) (Nat.le_of_lt hip) hop, if_neg hmore]
  rfl

/-- The literals leave `DIN` alone, so the offset field behind the literals is the one the wire had before. -/
theorem fetchOffset_atOffset {s : State} {k : LiteralKnown} {o : WireOffset}
    (hw : wireOffset s (s.dec.ip + k.nlit) k.form = some o) :
    (s.atOffset k).fetchOffset k.form = some (o.off, (s.atOffset k).afterOffset o) := by
  refine State.fetchOffset_of_wireOffset ?_
  have hdin : ∀ a, (s.atOffset k).readByte .din a = s.readByte .din a := fun a => by
    rw [State.atOffset, State.readByte_withDec, State.readByte_literalsCopied_ne _ _ (by decide), State.readByte_holding]
  exact (wireOffset_congr hdin rfl rfl rfl rfl _ _).trans hw

/-- The inline match length sends the offset part on to the match part (R274), with the offset the wire holds. -/
theorem State.offsetPart_atOffset {s : State} {k : LiteralKnown} {o : WireOffset} {len : Nat}
    (hw : wireOffset s (s.dec.ip + k.nlit) k.form = some o) (hlen : inlineMatchLength k.form k.field = some len) :
    (s.atOffset k).offsetPart =
      ((s.atOffset k).withDec { ((s.atOffset k).afterOffset o).dec with moff := o.off }).matchPart len := by
  have hinline : ((s.atOffset k).afterOffset o).dec.tokForm.inlineMatch ((s.atOffset k).afterOffset o).dec.tokM =
      some len := (k.form.inlineMatch_eq k.field).trans hlen
  rw [State.offsetPart_of_some (fetchOffset_atOffset hw), hinline]
  rfl

/-! ### Ending with `FORMAT_ERROR` -/

/-- `FORMAT_ERROR` from a state that differs from `s` in decoder registers and in output bytes only, with the output range
the same: it is an end with `FORMAT_ERROR` from `s`. -/
theorem formatErrorFrom_formatError {s u : State} (hrest : u = { s with dec := u.dec, dout := u.dout })
    (hdoff : u.dec.doff = s.dec.doff) (hdcap : u.dec.dcap = s.dec.dcap)
    (hbytes : ∀ a, (a < s.dec.doff ∨ s.dec.dcap ≤ a) → u.readByte .dout a = s.readByte .dout a) :
    FormatErrorFrom s u.formatError where
  rest := by
    rw [hrest]
    rfl
  bytes a ha := by
    rw [State.formatError, State.readByte_raise, State.readByte_unspecify_out _ _ _ _ _ _ (.inr (by omega)), hbytes a ha]

/-- The literals lie in the output range, so nothing outside it changes with them. -/
theorem readByte_atOffset_out {s : State} {k : LiteralKnown} (hdoff : s.dec.doff ≤ s.dec.op)
    (hop : s.dec.op + k.nlit ≤ s.dec.dcap) {a : Nat} (ha : a < s.dec.doff ∨ s.dec.dcap ≤ a) :
    (s.atOffset k).readByte .dout a = s.readByte .dout a := by
  have hout : a < (s.holding k).dec.op ∨ (s.holding k).dec.op + k.nlit ≤ a := by
    change a < s.dec.op ∨ s.dec.op + k.nlit ≤ a
    omega
  rw [State.atOffset, State.readByte_withDec, State.readByte_literalsCopied_out _ _ hout, State.readByte_holding]

/-- A match part that fails one of its checks behind a command's literals ends as from the state before the command. -/
theorem formatErrorFrom_afterLiterals {s : State} {k : LiteralKnown} (d : Dec) (hdoff : s.dec.doff ≤ s.dec.op)
    (hop : s.dec.op + k.nlit ≤ s.dec.dcap) (hddoff : d.doff = s.dec.doff) (hddcap : d.dcap = s.dec.dcap) :
    FormatErrorFrom s ((s.atOffset k).withDec d).formatError :=
  formatErrorFrom_formatError rfl hddoff hddcap fun a ha => by
    rw [State.readByte_withDec, readByte_atOffset_out hdoff hop ha]

/-! ### The obligation -/

/-- Settles O40: the failing check ends the match part with `FORMAT_ERROR`, right away for a match extension, and behind
the literals and the offset field, which change no byte outside the output range, for an inline length. -/
theorem matchPartErrors : Obligations.MatchPartErrors := by
  intro i s hdoff
  refine ⟨fun len hlen hbad => ?extension, fun k o len hk hip hop hw hlen hbad => ?inline⟩
  case extension =>
    refine ⟨s.formatError, ?_, formatErrorFrom_formatError rfl rfl rfl fun _ _ => rfl⟩
    rw [exec_of_extendedMatchLength hlen]
    split
    case isTrue => rfl
    case isFalse hne =>
      rw [State.matchPart_of_misfit]
      simpa [hne] using hbad
  case inline =>
    refine ⟨_, ?_, formatErrorFrom_afterLiterals
      { ((s.atOffset k).afterOffset o).dec with moff := o.off } hdoff hop rfl rfl⟩
    rw [exec_of_literalKnown hk, State.literalPart_holding hip hop, State.offsetPart_atOffset hw hlen,
      State.matchPart_of_misfit hbad]

end Sys2Proof.Machine
end

section
/-! The encodings (30_encoding.md): the decoder reads the fields the encoder has put into a byte, format by format, and
what it reads is the encoding of the instruction it answers. -/

namespace Sys2Proof

/-! ### The fields of a byte and of a 16-bit value -/

theorem extractLsb'_append_middle {m n k : Nat} (a : BitVec m) (b : BitVec n) (c : BitVec k) :
    (a ++ b ++ c).extractLsb' k n = b := by
  rw [BitVec.extractLsb'_append_eq_of_le le_rfl, Nat.sub_self, BitVec.extractLsb'_append_eq_right]

theorem extractLsb'_append_high {m n k : Nat} (a : BitVec m) (b : BitVec n) (c : BitVec k) :
    (a ++ b ++ c).extractLsb' (n + k) m = a := by
  rw [BitVec.extractLsb'_append_eq_of_le (Nat.le_add_left k n), Nat.add_sub_cancel, BitVec.extractLsb'_append_eq_left]

/-- Two neighbouring fields are one field. -/
theorem append_extractLsb' {w : Nat} (x : BitVec w) (start m n : Nat) :
    x.extractLsb' (start + n) m ++ x.extractLsb' start n = x.extractLsb' start (m + n) :=
  BitVec.extractLsb'_append_extractLsb'_eq_extractLsb' rfl

theorem halfOf_lohi (v : BitVec 16) : halfOf (loByte v) (hiByte v) = v :=
  (append_extractLsb' v 0 8 8).trans BitVec.extractLsb'_eq_self

@[simp] theorem loByte_halfOf (lo hi : Byte) : loByte (halfOf lo hi) = lo := BitVec.extractLsb'_append_eq_right

@[simp] theorem hiByte_halfOf (lo hi : Byte) : hiByte (halfOf lo hi) = hi := BitVec.extractLsb'_append_eq_left

/-- The V1 token byte is its three fields (R98). -/
theorem v1Token_fields (t : Byte) : t.extractLsb' 7 1 ++ t.extractLsb' 4 3 ++ t.extractLsb' 0 4 = t :=
  calc t.extractLsb' 7 1 ++ t.extractLsb' 4 3 ++ t.extractLsb' 0 4 = t.extractLsb' 4 4 ++ t.extractLsb' 0 4 :=
        congrArg (· ++ t.extractLsb' 0 4) (append_extractLsb' t 4 1 3)
    _ = t.extractLsb' 0 8 := append_extractLsb' t 0 4 4
    _ = t := BitVec.extractLsb'_eq_self

/-- The V2 token byte is its four fields (R106). -/
theorem v2Token_fields (t : Byte) :
    t.extractLsb' 6 2 ++ t.extractLsb' 5 1 ++ t.extractLsb' 3 2 ++ t.extractLsb' 0 3 = t :=
  calc t.extractLsb' 6 2 ++ t.extractLsb' 5 1 ++ t.extractLsb' 3 2 ++ t.extractLsb' 0 3
      = t.extractLsb' 5 3 ++ t.extractLsb' 3 2 ++ t.extractLsb' 0 3 :=
        congrArg (· ++ t.extractLsb' 3 2 ++ t.extractLsb' 0 3) (append_extractLsb' t 5 2 1)
    _ = t.extractLsb' 3 5 ++ t.extractLsb' 0 3 := congrArg (· ++ t.extractLsb' 0 3) (append_extractLsb' t 3 3 2)
    _ = t.extractLsb' 0 8 := append_extractLsb' t 0 5 3
    _ = t := BitVec.extractLsb'_eq_self

/-! ### Decoding an encoding -/

/-- The V1 token byte is read field by field (R98). -/
theorem decodeV1tok_fields (o : BitVec 1) (lll : BitVec 3) (mmmm : BitVec 4) (rest : List Byte) :
    decodeV1tok ((o ++ lll ++ mmmm) :: rest) =
      if o = 0#1 then .instr (.v1Cmd8 lll mmmm) 1 else .instr (.v1Cmd16 lll mmmm) 1 := by
  have ho : (o ++ lll ++ mmmm).extractLsb' 7 1 = o := extractLsb'_append_high ..
  have hl : (o ++ lll ++ mmmm).extractLsb' 4 3 = lll := extractLsb'_append_middle ..
  have hm : (o ++ lll ++ mmmm).extractLsb' 0 4 = mmmm := BitVec.extractLsb'_append_eq_right
  rw [decodeV1tok, ho, hl, hm]

/-- The V2 token byte is read field by field (R106, R110). -/
theorem decodeV2tok_fields (xy : BitVec 2) (z : BitVec 1) (ll : BitVec 2) (mmm : BitVec 3) (rest : List Byte) :
    decodeV2tok ((xy ++ z ++ ll ++ mmm) :: rest) =
      if xy.toNat = 0 then .instr (.v2Off5 z ll mmm) 1
      else if xy.toNat = 1 then .instr (.v2Off9 z ll mmm) 1
      else if xy.toNat = 2 then .instr (.v2Off13 z ll mmm) 1
      else if z = 0#1 then .instr (.v2Off16 ll mmm) 1
      else .instr (.v2Rep ll mmm) 1 := by
  have hhigh : (xy ++ z ++ ll ++ mmm).extractLsb' 5 3 = xy ++ z := extractLsb'_append_high ..
  have hxy : (xy ++ z ++ ll ++ mmm).extractLsb' 6 2 = xy := by
    rw [BitVec.extractLsb'_append_eq_of_le (by decide)]
    exact extractLsb'_append_high ..
  have hz : (xy ++ z ++ ll ++ mmm).extractLsb' 5 1 = z := by
    rw [BitVec.extractLsb'_append_eq_of_le (by decide)]
    exact extractLsb'_append_middle ..
  have hl : (xy ++ z ++ ll ++ mmm).extractLsb' 3 2 = ll := extractLsb'_append_middle ..
  have hm : (xy ++ z ++ ll ++ mmm).extractLsb' 0 3 = mmm := BitVec.extractLsb'_append_eq_right
  simp only [decodeV2tok]
  rw [hxy, hz, hl, hm]

/-- The low half of a nibble's entry is the nibble. -/
theorem nibble_of_entry (v : BitVec 4) : (0#4 ++ v).extractLsb' 0 4 = v := BitVec.extractLsb'_append_eq_right

/-- Settles O1: each constructor's encoding, with its operands, goes through the decoder of its format. -/
theorem decodeOfEncode : Obligations.DecodeOfEncode := by
  intro i rest hwf
  cases i with
  | init | destroy | shrink | getcount | expand => rfl
  | v1Cmd8 lll mmmm | v1Cmd16 lll mmmm => exact decodeV1tok_fields _ lll mmmm rest
  | v2Off5 z ll mmm | v2Off9 z ll mmm | v2Off13 z ll mmm => exact decodeV2tok_fields _ z ll mmm rest
  | v2Off16 ll mmm => exact decodeV2tok_fields 3#2 0#1 ll mmm rest
  | v2Rep ll mmm => exact decodeV2tok_fields 3#2 1#1 ll mmm rest
  | v1Litx8 b | v1Mlx8 b | v2Litx8 b | v2Mlx8 b => exact if_pos (of_decide_eq_true hwf)
  | v1Litx9 c | v1Mlx9 c | v1Eod | v2Eod => rfl
  | v1Litx16 v | v2Litx16 v | v2Mlx16 v =>
    simp [Instr.format, encode, decode, decodeV1litx, decodeV2litxb, decodeV2mlxb, halfOf_lohi]
  | v1Mlx16 v =>
    have hv : v ≠ 0#16 := fun h => absurd hwf (by simp [h, Instr.WellFormed, Instr.wf])
    simp [Instr.format, encode, decode, decodeV1mlx, halfOf_lohi, hv]
  | v2Litxn v | v2Mlxn v =>
    have hv : v.toNat ≤ 14 := of_decide_eq_true hwf
    simp only [Instr.format, encode, decode, List.cons_append, decodeV2litxn, decodeV2mlxn, nibble_of_entry]
    exact if_pos hv

/-! ### Encoding what was decoded -/

/-- The entry `i` of length `n` that the decoder has read at the head of `bytes` is well formed, of format `f`, and, outside
the command word and the nibble forms, written there as the encoder writes it. -/
structure ReadsAs (f : Format) (bytes : List Byte) (i : Instr) (n : Nat) : Prop where
  wf : i.WellFormed
  format : i.format = f
  length : n = (encode i).length
  fits : n ≤ bytes.length
  bytes : f ≠ .cmdw → f.isNibble = false → bytes.take n = encode i

theorem readsAs_of_decodeCmdw {bytes : List Byte} {i : Instr} {n : Nat} (h : decodeCmdw bytes = .instr i n) :
    ReadsAs .cmdw bytes i n := by
  match bytes, h with
  | b :: _ :: _ :: _ :: _, h =>
    simp only [decodeCmdw] at h
    split_ifs at h
    all_goals
      cases h
      exact ⟨rfl, rfl, rfl, by simp, fun hf => absurd rfl hf⟩

theorem readsAs_of_decodeV1tok {bytes : List Byte} {i : Instr} {n : Nat} (h : decodeV1tok bytes = .instr i n) :
    ReadsAs .v1tok bytes i n := by
  match bytes, h with
  | t :: rest, h =>
    rw [← v1Token_fields t, decodeV1tok_fields] at h
    have ht := v1Token_fields t
    split_ifs at h with ho
    all_goals cases h
    · rw [ho] at ht
      exact ⟨rfl, rfl, rfl, by simp, fun _ _ => by simp [encode, ht]⟩
    · rw [(BitVec.eq_zero_or_eq_one _).resolve_left ho] at ht
      exact ⟨rfl, rfl, rfl, by simp, fun _ _ => by simp [encode, ht]⟩

theorem readsAs_of_decodeV2tok {bytes : List Byte} {i : Instr} {n : Nat} (h : decodeV2tok bytes = .instr i n) :
    ReadsAs .v2tok bytes i n := by
  match bytes, h with
  | t :: rest, h =>
    rw [← v2Token_fields t, decodeV2tok_fields] at h
    have ht := v2Token_fields t
    have hxy : ∀ k : BitVec 2, (t.extractLsb' 6 2).toNat = k.toNat → t.extractLsb' 6 2 = k := fun _ =>
      BitVec.eq_of_toNat_eq
    have h3 : (t.extractLsb' 6 2).toNat < 4 := (t.extractLsb' 6 2).isLt
    split_ifs at h with h0 h1 h2 hz
    all_goals cases h
    · rw [hxy 0#2 h0] at ht
      exact ⟨rfl, rfl, rfl, by simp, fun _ _ => by simp [encode, ht]⟩
    · rw [hxy 1#2 h1] at ht
      exact ⟨rfl, rfl, rfl, by simp, fun _ _ => by simp [encode, ht]⟩
    · rw [hxy 2#2 h2] at ht
      exact ⟨rfl, rfl, rfl, by simp, fun _ _ => by simp [encode, ht]⟩
    · rw [hxy 3#2 (show _ = 3 by omega), hz] at ht
      exact ⟨rfl, rfl, rfl, by simp, fun _ _ => congrArg (fun b : Byte => [b]) ht.symm⟩
    · rw [hxy 3#2 (show _ = 3 by omega), (BitVec.eq_zero_or_eq_one _).resolve_left hz] at ht
      exact ⟨rfl, rfl, rfl, by simp, fun _ _ => congrArg (fun b : Byte => [b]) ht.symm⟩

/-- A byte is the one its value names. -/
theorem eq_byte_of_toNat {b : Byte} (k : Byte) (h : b.toNat = k.toNat) : b = k := BitVec.eq_of_toNat_eq h

theorem readsAs_of_decodeV1litx {bytes : List Byte} {i : Instr} {n : Nat} (h : decodeV1litx bytes = .instr i n) :
    ReadsAs .v1litx bytes i n := by
  unfold decodeV1litx at h
  split at h
  · cases h
  · rename_i b rest
    split_ifs at h with h8 h9 h16
    · cases h
      exact ⟨decide_eq_true h8, rfl, rfl, by simp, fun _ _ => rfl⟩
    · obtain rfl := eq_byte_of_toNat 0xFA#8 h9
      split at h <;> cases h
      exact ⟨rfl, rfl, rfl, by simp, fun _ _ => rfl⟩
    · obtain rfl := eq_byte_of_toNat 0xF9#8 h16
      split at h <;> cases h
      exact ⟨rfl, rfl, rfl, by simp, fun _ _ => by simp [encode]⟩

theorem readsAs_of_decodeV1mlx {bytes : List Byte} {i : Instr} {n : Nat} (h : decodeV1mlx bytes = .instr i n) :
    ReadsAs .v1mlx bytes i n := by
  unfold decodeV1mlx at h
  split at h
  · cases h
  · rename_i b rest
    split_ifs at h with h8 h9 h16
    · cases h
      exact ⟨decide_eq_true h8, rfl, rfl, by simp, fun _ _ => rfl⟩
    · obtain rfl := eq_byte_of_toNat 0xEF#8 h9
      split at h <;> cases h
      exact ⟨rfl, rfl, rfl, by simp, fun _ _ => rfl⟩
    · obtain rfl := eq_byte_of_toNat 0xEE#8 h16
      split at h
      · rename_i lo hi tail
        split_ifs at h with hv
        · cases h
          have hlo : lo = 0#8 := by rw [← loByte_halfOf lo hi, hv]; rfl
          have hhi : hi = 0#8 := by rw [← hiByte_halfOf lo hi, hv]; rfl
          exact ⟨rfl, rfl, rfl, by simp, fun _ _ => by simp [encode, hlo, hhi]⟩
        · cases h
          have hpos : 1 ≤ (halfOf lo hi).toNat :=
            Nat.one_le_iff_ne_zero.2 fun h0 => hv (BitVec.eq_of_toNat_eq h0)
          exact ⟨decide_eq_true hpos, rfl, rfl, by simp, fun _ _ => by simp [encode]⟩
      · cases h

theorem readsAs_of_decodeV2litxb {bytes : List Byte} {i : Instr} {n : Nat} (h : decodeV2litxb bytes = .instr i n) :
    ReadsAs .v2litxb bytes i n := by
  unfold decodeV2litxb at h
  split at h
  · cases h
  · rename_i b rest
    split_ifs at h with h8 h16
    · cases h
      exact ⟨decide_eq_true h8, rfl, rfl, by simp, fun _ _ => rfl⟩
    · obtain rfl := eq_byte_of_toNat 0xEF#8 h16
      split at h <;> cases h
      exact ⟨rfl, rfl, rfl, by simp, fun _ _ => by simp [encode]⟩

theorem readsAs_of_decodeV2mlxb {bytes : List Byte} {i : Instr} {n : Nat} (h : decodeV2mlxb bytes = .instr i n) :
    ReadsAs .v2mlxb bytes i n := by
  unfold decodeV2mlxb at h
  split at h
  · cases h
  · rename_i b rest
    split_ifs at h with h8 heod h16
    · cases h
      exact ⟨decide_eq_true h8, rfl, rfl, by simp, fun _ _ => rfl⟩
    · obtain rfl := eq_byte_of_toNat 0xE8#8 heod
      cases h
      exact ⟨rfl, rfl, rfl, by simp, fun _ _ => rfl⟩
    · obtain rfl := eq_byte_of_toNat 0xE9#8 h16
      split at h <;> cases h
      exact ⟨rfl, rfl, rfl, by simp, fun _ _ => by simp [encode]⟩

theorem readsAs_of_decodeV2litxn {bytes : List Byte} {i : Instr} {n : Nat} (h : decodeV2litxn bytes = .instr i n) :
    ReadsAs .v2litxn bytes i n := by
  match bytes, h with
  | b :: rest, h =>
    rw [decodeV2litxn] at h
    split_ifs at h with hv
    cases h
    exact ⟨decide_eq_true hv, rfl, rfl, by simp, fun _ hn => nomatch hn⟩

theorem readsAs_of_decodeV2mlxn {bytes : List Byte} {i : Instr} {n : Nat} (h : decodeV2mlxn bytes = .instr i n) :
    ReadsAs .v2mlxn bytes i n := by
  match bytes, h with
  | b :: rest, h =>
    rw [decodeV2mlxn] at h
    split_ifs at h with hv
    cases h
    exact ⟨decide_eq_true hv, rfl, rfl, by simp, fun _ hn => nomatch hn⟩

/-- What the decoder reads is written at the head of the bytes as its encoding, in each of the nine formats. -/
theorem readsAs_of_decode {f : Format} {bytes : List Byte} {i : Instr} {n : Nat} (h : decode f bytes = .instr i n) :
    ReadsAs f bytes i n := by
  cases f with
  | cmdw => exact readsAs_of_decodeCmdw h
  | v1tok => exact readsAs_of_decodeV1tok h
  | v1litx => exact readsAs_of_decodeV1litx h
  | v1mlx => exact readsAs_of_decodeV1mlx h
  | v2tok => exact readsAs_of_decodeV2tok h
  | v2litxn => exact readsAs_of_decodeV2litxn h
  | v2litxb => exact readsAs_of_decodeV2litxb h
  | v2mlxn => exact readsAs_of_decodeV2mlxn h
  | v2mlxb => exact readsAs_of_decodeV2mlxb h

/-- Settles O2: format by format, the bytes the decoder has looked at are those the encoder writes. -/
theorem encodeOfDecode : Obligations.EncodeOfDecode := by
  intro f bytes i n h
  obtain ⟨hwf, hformat, hlength, hfits, hbytes⟩ := readsAs_of_decode h
  exact ⟨hwf, hformat, hlength, hfits, hbytes⟩

/-! ### The reserved bytes -/

theorem decodeV1litx_reserved_iff (b : Byte) (rest : List Byte) :
    decodeV1litx (b :: rest) = .rejected .reservedLiteralExtension ↔ 251 ≤ b.toNat := by
  simp only [decodeV1litx]
  split_ifs with h8 h9 h16
  · simp; omega
  · cases rest <;> simp <;> omega
  · split <;> simp <;> omega
  · simp; omega

theorem decodeV1mlx_reserved_iff (b : Byte) (rest : List Byte) :
    decodeV1mlx (b :: rest) = .rejected .reservedMatchExtension ↔ 240 ≤ b.toNat := by
  simp only [decodeV1mlx]
  split_ifs with h8 h9 h16
  · simp; omega
  · cases rest <;> simp <;> omega
  · split
    · split_ifs <;> simp <;> omega
    · simp; omega
  · simp; omega

theorem decodeV2litxb_reserved_iff (b : Byte) (rest : List Byte) :
    decodeV2litxb (b :: rest) = .rejected .reservedLiteralExtension ↔ b.toNat = 238 ∨ 240 ≤ b.toNat := by
  simp only [decodeV2litxb]
  split_ifs with h8 h16
  · simp; omega
  · split <;> simp <;> omega
  · simp; omega

theorem decodeV2mlxb_reserved_iff (b : Byte) (rest : List Byte) :
    decodeV2mlxb (b :: rest) = .rejected .reservedMatchExtension ↔ 234 ≤ b.toNat := by
  simp only [decodeV2mlxb]
  split_ifs with h8 heod h16
  · simp; omega
  · simp; omega
  · split <;> simp <;> omega
  · simp; omega

/-- Settles O3: the reserved bytes of the four extension formats. -/
theorem reservedExtensionBytes : Obligations.ReservedExtensionBytes := fun b rest =>
  ⟨decodeV1litx_reserved_iff b rest, decodeV1mlx_reserved_iff b rest, decodeV2litxb_reserved_iff b rest,
    decodeV2mlxb_reserved_iff b rest⟩

/-- Settles O4, by running the decoder on each word. -/
theorem wordsOfTheTables : Obligations.WordsOfTheTables := by
  unfold Obligations.WordsOfTheTables
  decide

end Sys2Proof
end

section
/-! One step of the two agents (R20, R22, R272 to R276): what the fetch finds at `IP`, and which access or instruction a
step then runs. -/

namespace Sys2Proof.Machine

/-! ### Whose turn it is -/

/-- On the engine's turn a step is the engine's move, with or without a poll on the host's list. -/
theorem step_of_engineTurnNext {s : State} (h : s.engineTurnNext) : step s = engineMove s := by
  obtain ⟨hbusy, hhost | ⟨rest, hhost⟩⟩ := h
  · simp [step, nextMove, hhost, engineTurn, hbusy]
  · simp [step, nextMove, hhost, hbusy]

/-- Any access but a poll is made at once, busy or not. -/
theorem step_of_hostTurnNext_of_ne {s : State} {a : HostAct} {rest : List HostAct} (ha : s.hostTurnNext a rest)
    (hne : a ≠ .await) : step s = hostTurn { s with host := rest } a := by
  have hhost : s.host = a :: rest := ha
  simp [step, nextMove, hhost, hne]

/-- Settles O14. -/
theorem idleEngineStays : Obligations.IdleEngineStays := by
  intro s hidle hhost
  simp [step, nextMove, hhost, engineTurn, hidle]

/-! ### The command write -/

theorem commandWrite_of_instr {s : State} {w : Word} {i : Instr} {n : Nat} (hidle : s.busy = false)
    (hw : decode .cmdw (bytesOfWord w) = .instr i n) : commandWrite s w = exec i (s.beginCommand w) := by
  simp [commandWrite, hidle, hw]

/-- Settles O5: the step is the command write, which begins the command and runs it. -/
theorem stepRunsTheCommand : Obligations.StepRunsTheCommand := by
  intro s w rest i n ha hidle hw
  rw [step_writeCmd ha hidle, commandWrite_of_instr (by exact hidle) hw]
  rfl

/-! ### The fetch -/

theorem State.fetch_of_streamEnd {s : State} (htok : tokenExpected s.dec.expect = true) (hend : s.dec.ip = s.dec.dinsz) :
    s.fetch = .streamEnd := if_pos ⟨htok, hend⟩

theorem State.fetch_of_bytes {s : State} (hmore : ¬ (tokenExpected s.dec.expect = true ∧ s.dec.ip = s.dec.dinsz))
    (hbyte : s.dec.expect.isNibble = false) : s.fetch = s.fetchBytes := by
  simp [State.fetch, hmore, hbyte]

theorem tokenExpected_of_isNibble {f : Format} (h : f.isNibble = true) : tokenExpected f = false := by
  cases f <;> first | rfl | cases h

theorem State.fetch_of_nibble {s : State} (hnibble : s.dec.expect.isNibble = true) : s.fetch = s.fetchNibble := by
  simp [State.fetch, hnibble, tokenExpected_of_isNibble hnibble]

/-- The state once the instruction's `n` bytes are fetched. -/
theorem State.fetchBytes_of_instr {s : State} {i : Instr} {n : Nat}
    (h : decode s.dec.expect (s.streamBytes 3) = .instr i n) :
    s.fetchBytes = .instr i (s.withDec { s.dec with ip := s.dec.ip + n }) := by
  simp [State.fetchBytes, h]

theorem State.fetchBytes_of_rejected {s : State} {why : DecodeError}
    (h : decode s.dec.expect (s.streamBytes 3) = .rejected why) : s.fetchBytes = .formatError := by
  simp [State.fetchBytes, h]

theorem engineMove_of_fetch_instr {s t : State} {i : Instr} (h : s.fetch = .instr i t) : engineMove s = exec i t := by
  simp [engineMove, h]

theorem engineMove_of_fetch_escape {s t : State} (h : s.fetch = .escape t) : engineMove s = .next t := by
  simp [engineMove, h]

theorem engineMove_of_fetch_streamEnd {s : State} (h : s.fetch = .streamEnd) : engineMove s = .next s.streamEnd := by
  simp [engineMove, h]

theorem engineMove_of_fetch_formatError {s : State} (h : s.fetch = .formatError) :
    engineMove s = .next s.formatError := by
  simp [engineMove, h]

/-- Settles O6: with bytes left, the fetch answers what the bytes at `IP` decode to. -/
theorem stepRunsTheStreamInstruction : Obligations.StepRunsTheStreamInstruction := by
  intro s i n hturn hbyte hmore hdecode
  have hfetch := (State.fetch_of_bytes hmore hbyte).trans (State.fetchBytes_of_instr hdecode)
  rw [step_of_engineTurnNext hturn, engineMove_of_fetch_instr hfetch]

/-! ### The nibble forms -/

/-- The entry of a literal nibble is its form, or the escape (R111). -/
theorem decode_v2litxn_nibble (x : BitVec 4) :
    decode .v2litxn [0#4 ++ x] = if x.toNat ≤ 14 then .instr (.v2Litxn x) 1 else .escape .v2litxb := by
  simp only [decode, decodeV2litxn, nibble_of_entry]

/-- The entry of a match nibble is its form, or the escape (R116). -/
theorem decode_v2mlxn_nibble (x : BitVec 4) :
    decode .v2mlxn [0#4 ++ x] = if x.toNat ≤ 14 then .instr (.v2Mlxn x) 1 else .escape .v2mlxb := by
  simp only [decode, decodeV2mlxn, nibble_of_entry]

section
variable {s : State} {v p : Nat} {h : Bool} {nv : BitVec 4} (hw : wireNibble s s.dec.ip = some (v, p, h, nv))
include hw

/-- A nibble below 15 is the instruction of the expected nibble format, with the cursor past it. -/
theorem State.fetchNibble_of_form {i : Instr} {n : Nat}
    (hdecode : decode s.dec.expect [0#4 ++ BitVec.ofNat 4 v] = .instr i n) :
    s.fetchNibble = .instr i (s.withDec { s.dec with ip := p, nibh := h, nibv := nv }) := by
  obtain ⟨x, rfl, hx⟩ := State.getNibble_of_wireNibble hw
  rw [BitVec.ofNat_toNat, BitVec.setWidth_eq] at hdecode
  simp only [State.fetchNibble, hx, hdecode]

/-- A nibble of 15 makes the decoder expect the byte format behind it. -/
theorem State.fetchNibble_of_escape {f : Format} (hdecode : decode s.dec.expect [0#4 ++ BitVec.ofNat 4 v] = .escape f) :
    s.fetchNibble = .escape (s.withDec { s.dec with ip := p, nibh := h, nibv := nv, expect := f }) := by
  obtain ⟨x, rfl, hx⟩ := State.getNibble_of_wireNibble hw
  rw [BitVec.ofNat_toNat, BitVec.setWidth_eq] at hdecode
  simp only [State.fetchNibble, hx, hdecode]
  rfl

end

theorem isNibble_iff (f : Format) : f.isNibble = true ↔ f = .v2litxn ∨ f = .v2mlxn := by
  cases f <;> simp [Format.isNibble]

/-- Settles O7: the fetched nibble is decoded in the expected nibble format. -/
theorem stepRunsTheNibbleForm : Obligations.StepRunsTheNibbleForm := by
  intro s v p h nv hturn hnibble hw
  have hsmall : v ≤ 14 → (BitVec.ofNat 4 v).toNat ≤ 14 := fun hv => by rw [BitVec.toNat_ofNat]; omega
  refine ⟨fun hv hexpect => ?_, fun hv hexpect => ?_, fun hv => ?_⟩
  · have hdecode : decode s.dec.expect [0#4 ++ BitVec.ofNat 4 v] = .instr (.v2Litxn (BitVec.ofNat 4 v)) 1 := by
      rw [hexpect, decode_v2litxn_nibble, if_pos (hsmall hv)]
    rw [step_of_engineTurnNext hturn, engineMove_of_fetch_instr
      ((State.fetch_of_nibble hnibble).trans (State.fetchNibble_of_form hw hdecode))]
  · have hdecode : decode s.dec.expect [0#4 ++ BitVec.ofNat 4 v] = .instr (.v2Mlxn (BitVec.ofNat 4 v)) 1 := by
      rw [hexpect, decode_v2mlxn_nibble, if_pos (hsmall hv)]
    rw [step_of_engineTurnNext hturn, engineMove_of_fetch_instr
      ((State.fetch_of_nibble hnibble).trans (State.fetchNibble_of_form hw hdecode))]
  · subst hv
    have hdecode : decode s.dec.expect [0#4 ++ BitVec.ofNat 4 15] =
        .escape (if s.dec.expect = .v2litxn then .v2litxb else .v2mlxb) := by
      obtain hexpect | hexpect := (isNibble_iff _).1 hnibble <;> rw [hexpect] <;> decide
    rw [step_of_engineTurnNext hturn, engineMove_of_fetch_escape
      ((State.fetch_of_nibble hnibble).trans (State.fetchNibble_of_escape hw hdecode))]

/-! ### The end of the stream, and fields that are missing or reserved -/

theorem State.streamEnd_framed {s : State} (h : s.dec.draw = false) : s.streamEnd = s.expandDone := by
  simp [State.streamEnd, h]

theorem State.streamEnd_raw {s : State} (h : s.dec.draw = true) : s.streamEnd = s.formatError := by
  simp [State.streamEnd, h]

/-- `FORMAT_ERROR` as an end from the state it is raised in (R64, R374). -/
theorem formatErrorFrom_self (s : State) : FormatErrorFrom s s.formatError :=
  formatErrorFrom_formatError rfl rfl rfl fun _ _ => rfl

/-- Settles O8: the fetch finds the end of the stream, where the block's kind decides. -/
theorem streamEndBetweenCommands : Obligations.StreamEndBetweenCommands := by
  intro s hturn htok hend
  have htoken : tokenExpected s.dec.expect = true := by obtain h | h := htok <;> rw [h] <;> rfl
  have hstep : step s = .next s.streamEnd := by
    rw [step_of_engineTurnNext hturn, engineMove_of_fetch_streamEnd (State.fetch_of_streamEnd htoken hend)]
  refine ⟨fun hframed => ?_, fun hraw => ⟨s.formatError, ?_, formatErrorFrom_self s⟩⟩
  · rw [hstep, State.streamEnd_framed hframed]
    rfl
  · rw [hstep, State.streamEnd_raw hraw]

/-- No nibble is fetched where neither a buffered nibble nor a byte is left (R273). -/
theorem State.getNibble_of_wireNibble_none {s : State} (hw : wireNibble s s.dec.ip = none) : s.getNibble = none := by
  unfold wireNibble at hw
  split_ifs at hw with hbuffered hlt
  simp [State.getNibble, hbuffered, State.getByte_of_ge (Nat.le_of_not_lt hlt)]

/-- Settles O9: the fetch rejects the field. -/
theorem badFieldEndsWithFormatError : Obligations.BadFieldEndsWithFormatError := by
  intro s hturn
  have hstep : s.fetch = .formatError → ∃ t, step s = .next t ∧ FormatErrorFrom s t := fun hfetch =>
    ⟨s.formatError, by rw [step_of_engineTurnNext hturn, engineMove_of_fetch_formatError hfetch], formatErrorFrom_self s⟩
  refine ⟨fun why hbyte hmore hdecode => hstep ?_, fun hnibble hw => hstep ?_⟩
  · rw [State.fetch_of_bytes hmore hbyte, State.fetchBytes_of_rejected hdecode]
  · rw [State.fetch_of_nibble hnibble, State.fetchNibble, State.getNibble_of_wireNibble_none hw]

end Sys2Proof.Machine
end

section
/-! The host commands (46_host_commands.md): what each does with legal operands, at which check it ends otherwise, and how
every command ends or starts. -/

namespace Sys2Proof.Machine

/-! ### The operand checks -/

theorem legalVersion_iff (w : Word) : legalVersion w = true ↔ w = 1#32 ∨ w = 2#32 := by simp [legalVersion]

theorem legalFlags_iff (w : Word) : legalFlags w = true ↔ w.toNat < 4 := by
  rw [legalFlags, beq_iff_eq, Nat.div_eq_zero_iff]
  omega

/-- A `format_version` operand as the two bits the machine keeps of it. -/
theorem setWidth_version {w : Word} (h : w = 1#32 ∨ w = 2#32) :
    (w.setWidth 2 : BitVec 2).toNat = w.toNat ∧ (w.setWidth 2 = 2#2 ↔ w = 2#32) ∧ (w.setWidth 2 = 1#2 ∨ w.setWidth 2 = 2#2) := by
  obtain rfl | rfl := h <;> decide

/-! ### `INIT` -/

/-- Settles O16: no check fails, and the context is written with the floor of its format. -/
theorem initCompletes : Obligations.InitCompletes := by
  intro s hversion hflags hmin hwin
  have hfloor : minMatchFloor (s.arg2.setWidth 2) = if s.arg2 = 1#32 then 3 else 2 := by
    obtain h | h := hversion <;> rw [h] <;> decide
  simp [exec, execInit, (legalVersion_iff _).2 hversion, (legalFlags_iff _).2 hflags, Nat.not_lt.2 hmin,
    Nat.not_lt.2 (show s.arg0.toNat ≤ Config.workCap from hwin), hfloor, favorFlag, rawFlag, State.dropContext, State.finish]

theorem execInit_of_illegal {s : State}
    (h : ¬ ((s.arg2 = 1#32 ∨ s.arg2 = 2#32) ∧ s.arg3.toNat < 4 ∧ s.arg1.toNat ≤ 255)) :
    execInit s = .next (s.dropContext.raise .badArg) := by
  rw [← legalVersion_iff, ← legalFlags_iff] at h
  unfold execInit
  split_ifs with hversion hflags hmin
  · rfl
  · rfl
  · rfl
  all_goals exact absurd ⟨by simpa using hversion, by simpa using hflags, by omega⟩ h

theorem execInit_of_large {s : State} (hversion : s.arg2 = 1#32 ∨ s.arg2 = 2#32) (hflags : s.arg3.toNat < 4)
    (hmin : s.arg1.toNat ≤ 255) (hwin : 131072 < s.arg0.toNat) : execInit s = .next (s.dropContext.raise .alloc) := by
  simp [execInit, (legalVersion_iff _).2 hversion, (legalFlags_iff _).2 hflags, Nat.not_lt.2 hmin,
    show Config.workCap < s.arg0.toNat from hwin]

/-- Settles O17: the context is dropped before the checks. -/
theorem initRejectsOperands : Obligations.InitRejectsOperands := fun s =>
  ⟨fun hillegal => ⟨s.dropContext.ctx, rfl, rfl, execInit_of_illegal hillegal⟩,
    fun hversion hflags hmin hwin => ⟨s.dropContext.ctx, rfl, rfl, execInit_of_large hversion hflags hmin hwin⟩⟩

/-! ### `DESTROY` and `GETCOUNT` -/

theorem execShrink_of_no_context {s : State} (h : s.ctx.valid = false) : execShrink s = .next (s.raise .badArg) :=
  if_pos h

theorem execGetcount_of_no_context {s : State} (h : s.ctx.valid = false) : execGetcount s = .next (s.raise .badArg) :=
  if_pos h

/-- Settles O18: `DESTROY` has no check, and the two commands that need a context find none. -/
theorem destroyCompletes : Obligations.DestroyCompletes := fun s =>
  ⟨s.dropContext.finish 0#32, rfl, rfl, rfl, rfl, execShrink_of_no_context rfl, execGetcount_of_no_context rfl⟩

/-- Settles O19. -/
theorem getcountCompletes : Obligations.GetcountCompletes := by
  refine fun s => ⟨fun hvalid => ?_, execGetcount_of_no_context⟩
  have hrun : execGetcount s = .next (s.finish s.ctx.cmdcount) := if_neg (by simp [hvalid])
  exact hrun

/-! ### `EXPAND` -/

/-- Settles O24: no check fails, and the decoder is set up (R271). -/
theorem expandStartsDecoder : Obligations.ExpandStartsDecoder := by
  intro s hbusy hdone hversion hflags hin hcap hoff
  obtain ⟨hfmt, hfmt2, -⟩ := setWidth_version hversion
  have hrun : exec .expand s = .next s.startDecode := by
    simp [exec, execExpand, (legalVersion_iff _).2 hversion, (legalFlags_iff _).2 hflags, Nat.not_lt.2 hoff,
      Nat.not_lt.2 (show s.arg2.toNat ≤ Config.memCap from hin), Nat.not_lt.2 (show s.arg4.toNat ≤ Config.memCap from hcap)]
  have hexpect : tokenFormat (s.arg0.setWidth 2) = if s.arg0 = 1#32 then Format.v1tok else Format.v2tok := by
    obtain h | h := hversion <;> rw [h] <;> decide
  have hstart : s.startDecode = { s with dec := s.startDecode.dec } := by
    simp only [State.startDecode, hbusy.symm, hdone.symm]
  exact ⟨s.startDecode.dec, hrun.trans (congrArg _ hstart), rfl, rfl, rfl, rfl, rfl, hfmt, rfl, rfl, rfl, rfl, hexpect⟩

/-- Settles O25: whichever operand is illegal, its check ends the command. -/
theorem expandRejectsOperands : Obligations.ExpandRejectsOperands := by
  intro s h
  rw [← legalVersion_iff, ← legalFlags_iff] at h
  change execExpand s = .next (s.raise .badArg)
  unfold execExpand
  split_ifs with hversion hflags hin hcap hoff
  · rfl
  · rfl
  · rfl
  · rfl
  · rfl
  · exact absurd ⟨by simpa using hversion, by simpa using hflags, Nat.le_of_not_lt hin, Nat.le_of_not_lt hcap,
      Nat.le_of_not_lt hoff⟩ h

/-! ### `SHRINK` -/

/-- Settles O21: the checks in their order, the count being cleared before them. -/
theorem shrinkRejectsOperands : Obligations.ShrinkRejectsOperands := by
  refine fun s => ⟨execShrink_of_no_context, fun hvalid k hk => ?_⟩
  have hlimits : Config.rawMaxInput = 65535 ∧ Config.maxBlock = 65535 ∧ Config.memCap = 131072 := ⟨rfl, rfl, rfl⟩
  obtain ⟨hraw, hblock, hcap⟩ := hlimits
  change execShrink s = .next ({ s with ctx := { s.ctx with cmdcount := 0#32 } }.raise k)
  obtain ⟨hwin, rfl⟩ | ⟨hwin, hr, hin, rfl⟩ | ⟨hwin, hr, hin, rfl⟩ | ⟨hwin, hin, hout, rfl⟩ := hk
  · simp [execShrink, hvalid, hwin]
  · simp [execShrink, hvalid, Nat.not_lt.2 hwin, hr, hraw, hin]
  · simp [execShrink, hvalid, Nat.not_lt.2 hwin, hr, hblock, hin]
  · simp [execShrink, hvalid, Nat.not_lt.2 hwin, hraw, hblock, Nat.not_lt.2 hin, hcap, hout]

/-- The phases' working arrays and block, with legal operands. -/
def State.compressed (s : State) : Work × List Byte :=
  compress s.ctx s.work (s.readBytes .win 0 (s.arg0.toNat + s.arg1.toNat)) s.arg0.toNat

/-- The state in which `SHRINK` checks the size of its block. -/
def State.afterPhases (s : State) : State := { s with ctx := { s.ctx with cmdcount := 0#32 }, work := s.compressed.1 }

/-- With legal operands `SHRINK` runs the phases and goes on to the size checks (R342, R344). -/
theorem execShrink_of_legal {s : State} (hvalid : s.ctx.valid = true)
    (hwin : s.arg0.toNat + s.arg1.toNat ≤ s.ctx.maxwin) (hin : s.arg1.toNat ≤ 65535) (hcap : s.arg2.toNat ≤ 131072) :
    execShrink s = .next (s.afterPhases.shrinkEnd s.arg1.toNat s.arg2.toNat s.compressed.2) := by
  have hcontext : ¬ s.ctx.valid = false := by simp [hvalid]
  have hraw : ¬ (s.ctx.raw = true ∧ Config.rawMaxInput < s.arg1.toNat) := fun h => Nat.not_lt.2 hin h.2
  have hblock : ¬ (s.ctx.raw = false ∧ Config.maxBlock < s.arg1.toNat) := fun h => Nat.not_lt.2 hin h.2
  have hmem : ¬ Config.memCap < s.arg2.toNat := Nat.not_lt.2 hcap
  exact (if_neg hcontext).trans <| (if_neg (Nat.not_lt.2 hwin)).trans <| (if_neg hraw).trans <|
    (if_neg hblock).trans (if_neg hmem)

section
variable {s : State} {inputSize cap : Nat} {out : List Byte}

/-- The first size check (R248). -/
theorem State.shrinkEnd_of_too_small (h : cap < out.length) :
    s.shrinkEnd inputSize cap out = (s.unspecify .cout 0 cap).raise .outTooSmall := if_pos h

/-- The second size check, in raw mode (R249). -/
theorem State.shrinkEnd_of_incompressible (hfits : out.length ≤ cap) (hraw : s.ctx.raw = true)
    (h : inputSize ≤ out.length) :
    s.shrinkEnd inputSize cap out = (s.unspecify .cout 0 cap).raise .rawIncompressible := by
  rw [State.shrinkEnd, if_neg (Nat.not_lt.2 hfits), if_pos ⟨hraw, h⟩]

/-- A block that passes both checks is written (R345), and the rest of the output range is free (R62). -/
theorem State.shrinkEnd_of_success (hfits : out.length ≤ cap) (h : s.ctx.raw = true → out.length < inputSize) :
    s.shrinkEnd inputSize cap out =
      State.finish { (s.writeBytes .cout 0 out).unspecify .cout out.length cap with
        ctx := { s.ctx with cmdcount := tokenCount s.work } } (BitVec.ofNat 32 out.length) := by
  have hsmaller : ¬ (s.ctx.raw = true ∧ inputSize ≤ out.length) := fun ⟨hraw, hle⟩ => Nat.not_le.2 (h hraw) hle
  rw [State.shrinkEnd, if_neg (Nat.not_lt.2 hfits), if_neg hsmaller]
  simp

end

/-- Settles O20: the block is written below the free range, which ends at the capacity. -/
theorem shrinkCompletes : Obligations.ShrinkCompletes := by
  intro s r hvalid hwin hin hcap hr hfits hraw
  obtain rfl : r = s.compressed := hr
  have hrun := execShrink_of_legal hvalid hwin hin hcap
  rw [State.shrinkEnd_of_success (s := s.afterPhases) hfits hraw] at hrun
  refine ⟨_, hrun, rfl, fun a ha => ?_, fun a ha => ?_⟩
  · calc _ = ((s.afterPhases.writeBytes .cout 0 s.compressed.2).unspecify .cout s.compressed.2.length
            s.arg2.toNat).readByte .cout a := rfl
      _ = (s.afterPhases.writeBytes .cout 0 s.compressed.2).readByte .cout a :=
          State.readByte_unspecify_out _ _ _ _ _ _ (.inr (.inl ha))
      _ = s.compressed.2[a] := by rw [State.readByte_writeBytes_same, dif_pos (by omega)]; simp
  · calc _ = ((s.afterPhases.writeBytes .cout 0 s.compressed.2).unspecify .cout s.compressed.2.length
            s.arg2.toNat).readByte .cout a := rfl
      _ = (s.afterPhases.writeBytes .cout 0 s.compressed.2).readByte .cout a :=
          State.readByte_unspecify_out _ _ _ _ _ _ (.inr (.inr ha))
      _ = s.afterPhases.readByte .cout a := by rw [State.readByte_writeBytes_same, dif_neg (by omega)]

/-- Settles O22: the failing check leaves the range below the capacity free and latches its error. -/
theorem shrinkSizeErrors : Obligations.ShrinkSizeErrors := by
  intro s r hvalid hwin hin hcap hr k hk
  obtain rfl : r = s.compressed := hr
  have hrun : execShrink s = .next ((s.afterPhases.unspecify .cout 0 s.arg2.toNat).raise k) := by
    rw [execShrink_of_legal hvalid hwin hin hcap]
    obtain ⟨hsmall, rfl⟩ | ⟨hfits, hraw, hbig, rfl⟩ := hk
    · rw [State.shrinkEnd_of_too_small hsmall]
    · rw [State.shrinkEnd_of_incompressible (s := s.afterPhases) hfits hraw hbig]
  refine ⟨_, hrun, rfl, fun a ha => ?_⟩
  rw [State.readByte_raise, State.readByte_unspecify_out _ _ _ _ _ _ (.inr (.inr ha))]
  rfl

end Sys2Proof.Machine
end

section
/-! The result of a `SHRINK` is a function of the context's configuration, the operands and the window (R29, R347). -/

namespace Sys2Proof.Machine

/-- The block is the encoding of the Tokens (R230). -/
theorem compress_out (c : Ctx) (k : Work) (w : List Byte) (hist : Nat) :
    (compress c k w hist).2 = (encodeTokens (c.fmt == 2#2) c.raw w (compress c k w hist).1.tok).out := rfl

/-- No phase that writes the Tokens reads a working array of before (R29). -/
theorem compress_tok_congr (c : Ctx) (k k' : Work) (w : List Byte) (hist : Nat) :
    (compress c k w hist).1.tok = (compress c k' w hist).1.tok := by
  by_cases hfmt : c.fmt = 2#2
  · rw [compress_tok_v2 hfmt, compress_tok_v2 hfmt]
  · rw [compress_tok_v1 hfmt, compress_tok_v1 hfmt]

theorem compress_out_congr (c : Ctx) (k k' : Work) (w : List Byte) (hist : Nat) :
    (compress c k w hist).2 = (compress c k' w hist).2 := by
  rw [compress_out, compress_out, compress_tok_congr c k k']

/-- The token count of an earlier command is no input of the phases. -/
theorem compress_cmdcount (c : Ctx) (n : Word) (k : Work) (w : List Byte) (hist : Nat) :
    compress { c with cmdcount := n } k w hist = compress c k w hist := rfl

/-- Two states that a `SHRINK` cannot tell apart: the same context but for the token count, operands and window (R347). -/
structure State.SameShrink (s s' : State) : Prop where
  ctx : { s.ctx with cmdcount := 0#32 } = { s'.ctx with cmdcount := 0#32 }
  arg0 : s.arg0 = s'.arg0
  arg1 : s.arg1 = s'.arg1
  arg2 : s.arg2 = s'.arg2
  window : ∀ a, a < s.arg0.toNat + s.arg1.toNat → s.readByte .win a = s'.readByte .win a

section
variable {s s' : State} (h : s.SameShrink s')
include h

theorem State.SameShrink.valid : s.ctx.valid = s'.ctx.valid := (congrArg Ctx.valid h.ctx :)

theorem State.SameShrink.maxwin : s.ctx.maxwin = s'.ctx.maxwin := (congrArg Ctx.maxwin h.ctx :)

theorem State.SameShrink.raw : s.ctx.raw = s'.ctx.raw := (congrArg Ctx.raw h.ctx :)

/-- The phases run on the same context and window, from working arrays that may differ. -/
theorem State.SameShrink.compressed :
    s'.compressed = compress s.ctx s'.work (s.readBytes .win 0 (s.arg0.toNat + s.arg1.toNat)) s.arg0.toNat := by
  have hwindow : s'.readBytes .win 0 (s.arg0.toNat + s.arg1.toNat) = s.readBytes .win 0 (s.arg0.toNat + s.arg1.toNat) :=
    State.readBytes_congr fun i hi => (h.window (0 + i) (by omega)).symm
  rw [State.compressed, ← h.arg0, ← h.arg1, hwindow, ← compress_cmdcount s'.ctx 0#32, ← h.ctx, compress_cmdcount]

theorem State.SameShrink.tok : s.compressed.1.tok = s'.compressed.1.tok := by
  rw [h.compressed]
  exact compress_tok_congr ..

theorem State.SameShrink.out : s.compressed.2 = s'.compressed.2 := by
  rw [h.compressed]
  exact compress_out_congr ..

end

/-- The operand check at which `SHRINK` ends (R342, R343). -/
def State.shrinkRejects (s : State) (k : ErrKind) : Prop :=
  s.ctx.maxwin < s.arg0.toNat + s.arg1.toNat ∧ k = .alloc ∨
  s.arg0.toNat + s.arg1.toNat ≤ s.ctx.maxwin ∧ s.ctx.raw = true ∧ 65535 < s.arg1.toNat ∧ k = .rawInputTooLarge ∨
  s.arg0.toNat + s.arg1.toNat ≤ s.ctx.maxwin ∧ s.ctx.raw = false ∧ 65535 < s.arg1.toNat ∧ k = .badArg ∨
  s.arg0.toNat + s.arg1.toNat ≤ s.ctx.maxwin ∧ s.arg1.toNat ≤ 65535 ∧ 131072 < s.arg2.toNat ∧ k = .badArg

/-- The size check at which `SHRINK` ends (R248, R249). -/
def State.shrinkOverflows (s : State) (k : ErrKind) : Prop :=
  s.arg2.toNat < s.compressed.2.length ∧ k = .outTooSmall ∨
  s.compressed.2.length ≤ s.arg2.toNat ∧ s.ctx.raw = true ∧ s.arg1.toNat ≤ s.compressed.2.length ∧ k = .rawIncompressible

/-- The operands pass every check. -/
def State.ShrinkLegal (s : State) : Prop :=
  s.arg0.toNat + s.arg1.toNat ≤ s.ctx.maxwin ∧ s.arg1.toNat ≤ 65535 ∧ s.arg2.toNat ≤ 131072

/-- The error `SHRINK` ends with when it has a context, at its first failing check (R381). -/
def State.shrinkFails (s : State) (k : ErrKind) : Prop := s.shrinkRejects k ∨ s.ShrinkLegal ∧ s.shrinkOverflows k

/-- Every check passes: those of the operands, and the two of the block's size. -/
structure State.ShrinkSucceeds (s : State) : Prop where
  legal : s.ShrinkLegal
  fits : s.compressed.2.length ≤ s.arg2.toNat
  smaller : s.ctx.raw = true → s.compressed.2.length < s.arg1.toNat

theorem State.shrinkLegal_or_rejects (s : State) : s.ShrinkLegal ∨ ∃ k, k ≠ .ok ∧ s.shrinkRejects k := by
  obtain hwin | hwin := Nat.lt_or_ge s.ctx.maxwin (s.arg0.toNat + s.arg1.toNat)
  · exact .inr ⟨.alloc, by decide, .inl ⟨hwin, rfl⟩⟩
  obtain hin | hin := Nat.lt_or_ge 65535 s.arg1.toNat
  · cases hraw : s.ctx.raw with
    | true => exact .inr ⟨.rawInputTooLarge, by decide, .inr (.inl ⟨hwin, hraw, hin, rfl⟩)⟩
    | false => exact .inr ⟨.badArg, by decide, .inr (.inr (.inl ⟨hwin, hraw, hin, rfl⟩))⟩
  obtain hcap | hcap := Nat.lt_or_ge 131072 s.arg2.toNat
  · exact .inr ⟨.badArg, by decide, .inr (.inr (.inr ⟨hwin, hin, hcap, rfl⟩))⟩
  exact .inl ⟨hwin, hin, hcap⟩

theorem State.shrinkSucceeds_or_fails (s : State) : s.ShrinkSucceeds ∨ ∃ k, k ≠ .ok ∧ s.shrinkFails k := by
  obtain hlegal | ⟨k, hk, hrejects⟩ := s.shrinkLegal_or_rejects
  · obtain hsmall | hfits := Nat.lt_or_ge s.arg2.toNat s.compressed.2.length
    · exact .inr ⟨.outTooSmall, by decide, .inr ⟨hlegal, .inl ⟨hsmall, rfl⟩⟩⟩
    by_cases hraw : s.ctx.raw = true ∧ s.arg1.toNat ≤ s.compressed.2.length
    · exact .inr ⟨.rawIncompressible, by decide, .inr ⟨hlegal, .inr ⟨hfits, hraw.1, hraw.2, rfl⟩⟩⟩
    · exact .inl ⟨hlegal, hfits, fun h => Nat.lt_of_not_le fun hle => hraw ⟨h, hle⟩⟩
  · exact .inr ⟨k, hk, .inl hrejects⟩

section
variable {s s' : State} (h : s.SameShrink s')
include h

theorem State.SameShrink.fails {k : ErrKind} (hk : s.shrinkFails k) : s'.shrinkFails k := by
  simpa only [State.shrinkFails, State.shrinkRejects, State.shrinkOverflows, State.ShrinkLegal, h.arg0, h.arg1,
    h.arg2, h.maxwin, h.raw, h.out] using hk

theorem State.SameShrink.succeeds (hs : s.ShrinkSucceeds) : s'.ShrinkSucceeds := by
  obtain ⟨⟨hwin, hin, hcap⟩, hfits, hsmaller⟩ := hs
  rw [h.arg0, h.arg1, h.maxwin] at hwin
  rw [h.out] at hfits hsmaller
  rw [h.arg1] at hin hsmaller
  rw [h.arg2] at hcap hfits
  rw [h.raw] at hsmaller
  exact ⟨⟨hwin, hin, hcap⟩, hfits, hsmaller⟩

end

section
variable {s t : State} (hvalid : s.ctx.valid = true) (hrun : exec .shrink s = .next t)
include hvalid hrun

/-- What every failed `SHRINK` with a context leaves (R342, R372). -/
theorem shrink_of_fails {k : ErrKind} (h : s.shrinkFails k) :
    t.result = 0xFFFFFFFF#32 ∧ t.errcode = k ∧ t.ctx = { s.ctx with cmdcount := 0#32 } := by
  obtain hrejects | ⟨⟨hwin, hin, hcap⟩, hover⟩ := h
  · obtain rfl := Host.Outcome.next.inj (hrun.symm.trans ((shrinkRejectsOperands s).2 hvalid k hrejects))
    exact ⟨rfl, rfl, rfl⟩
  · obtain ⟨u, hu, hrest, -⟩ := shrinkSizeErrors s _ hvalid hwin hin hcap rfl k hover
    obtain rfl := Host.Outcome.next.inj (hrun.symm.trans hu)
    rw [hrest]
    exact ⟨rfl, rfl, rfl⟩

/-- What a successful `SHRINK` leaves (R345). -/
theorem shrink_of_succeeds (h : s.ShrinkSucceeds) :
    t.result = BitVec.ofNat 32 s.compressed.2.length ∧ t.errcode = .ok ∧
      t.ctx = { s.ctx with cmdcount := BitVec.ofNat 32 s.compressed.1.tok.length } ∧ t.work = s.compressed.1 ∧
      ∀ a (ha : a < s.compressed.2.length), t.readByte .cout a = s.compressed.2[a] := by
  obtain ⟨⟨hwin, hin, hcap⟩, hfits, hsmaller⟩ := h
  obtain ⟨u, hu, hrest, hblock, -⟩ := shrinkCompletes s _ hvalid hwin hin hcap rfl hfits hsmaller
  obtain rfl := Host.Outcome.next.inj (hrun.symm.trans hu)
  exact ⟨(congrArg State.result hrest :), (congrArg State.errcode hrest :), (congrArg State.ctx hrest :),
    (congrArg State.work hrest :), hblock⟩

end

/-- Settles O23: two `SHRINK`s that see the same inputs end at the same check, or with the same block. -/
theorem shrinkIgnoresOldArrays : Obligations.ShrinkIgnoresOldArrays := by
  intro s s' t t' hvalid hctx h0 h1 h2 hwindow hrun hrun'
  have h : s.SameShrink s' := ⟨hctx, h0, h1, h2, hwindow⟩
  have hvalid' : s'.ctx.valid = true := h.valid ▸ hvalid
  obtain hs | ⟨k, hk, hfails⟩ := s.shrinkSucceeds_or_fails
  · obtain ⟨hresult, herr, hc, hwork, hblock⟩ := shrink_of_succeeds hvalid hrun hs
    obtain ⟨hresult', herr', hc', hwork', hblock'⟩ := shrink_of_succeeds hvalid' hrun' (h.succeeds hs)
    refine ⟨by rw [hresult, hresult', h.out], herr.trans herr'.symm, ?_, fun _ => ⟨?_, fun a ha => ?_⟩⟩
    · rw [hc, hc', ← h.tok]
      exact congrArg (fun c : Ctx => { c with cmdcount := BitVec.ofNat 32 s.compressed.1.tok.length }) h.ctx
    · rw [hwork, hwork', h.tok]
    · have hlt : a < s.compressed.2.length := by
        rw [hresult, BitVec.toNat_ofNat] at ha
        exact Nat.lt_of_lt_of_le ha (Nat.mod_le _ _)
      rw [hblock a hlt, hblock' a (h.out ▸ hlt)]
      simp only [h.out]
  · obtain ⟨hresult, herr, hc⟩ := shrink_of_fails hvalid hrun hfails
    obtain ⟨hresult', herr', hc'⟩ := shrink_of_fails hvalid' hrun' (h.fails hfails)
    exact ⟨hresult.trans hresult'.symm, herr.trans herr'.symm, by rw [hc, hc', h.ctx], fun hok =>
      absurd (herr.symm.trans hok) hk⟩

end Sys2Proof.Machine
end

section
/-! The register window and the memories as the host sees them (R21 to R25, R60, R66, R71, R72, R420), the reset event
(R410, R411), and how every command write ends (R330, R372, R383). -/

namespace Sys2Proof.Machine

/-! ### The flags -/

@[simp] theorem getLsbD_append_flagBit_zero {w : Nat} (x : BitVec w) (b : Bool) : (x ++ flagBit b).getLsbD 0 = b := by
  rw [BitVec.getLsbD_append]
  simp [flagBit]

@[simp] theorem getLsbD_append_flagBit_succ {w : Nat} (x : BitVec w) (b : Bool) (k : Nat) :
    (x ++ flagBit b).getLsbD (k + 1) = x.getLsbD k := by
  rw [BitVec.getLsbD_append]
  simp

/-- Settles O28: bit by bit through the concatenation of the flags. -/
theorem statusBits : Obligations.StatusBits := by
  intro s
  refine ⟨?_, ?_, ?_, ?_, fun k hk => ?_⟩
  · rw [State.statusWord, getLsbD_append_flagBit_zero]
  · rw [State.statusWord, getLsbD_append_flagBit_succ, getLsbD_append_flagBit_zero]
  · rw [State.statusWord, getLsbD_append_flagBit_succ, getLsbD_append_flagBit_succ, getLsbD_append_flagBit_zero]
  · rw [State.statusWord, getLsbD_append_flagBit_succ, getLsbD_append_flagBit_succ, getLsbD_append_flagBit_succ,
      getLsbD_append_flagBit_zero]
  · obtain ⟨j, rfl⟩ := Nat.exists_eq_add_of_le' hk
    rw [State.statusWord, getLsbD_append_flagBit_succ, getLsbD_append_flagBit_succ, getLsbD_append_flagBit_succ,
      getLsbD_append_flagBit_succ, BitVec.getLsbD_zero]

/-! ### Reset -/

/-- Settles O11: no memory holds a cell, nothing runs, and there is no context. -/
theorem resetMeetsInvariant : Obligations.ResetMeetsInvariant where
  memories sp := by cases sp <;> rfl
  decoder := nofun
  cleared := nofun
  flag := by simp [State.reset]
  minusOne h := absurd rfl h
  context := ⟨nofun, fun _ => rfl⟩

/-- Every register of the window reads 0 when the registers and the flags behind it are 0 (R35). -/
theorem regValue_reset (off : Nat) : State.reset.regValue off = 0#32 := by
  have hstatus : State.reset.statusWord = 0#32 := by decide
  unfold State.regValue
  split_ifs
  · exact hstatus
  all_goals rfl

/-- Settles O12. -/
theorem resetRegistersReadZero : Obligations.ResetRegistersReadZero :=
  ⟨regValue_reset, rfl, rfl, rfl, rfl, rfl, rfl, rfl, rfl⟩

/-- Settles O13: the reset event is the reset state but for the host's side and the counters. -/
theorem resetEventClears : Obligations.ResetEventClears := fun s rest ha =>
  ⟨State.resetEvent { s with host := rest }, step_of_hostTurnNext_of_ne ha (by decide), regValue_reset, rfl, rfl,
    fun sp a => by cases sp <;> rfl, rfl⟩

/-! ### Registers -/

/-- A write of one register is not seen at another offset (R21). -/
theorem State.regValue_setReg_ne (s : State) {off off' : Nat} (h : off ≠ off') (v : Word) :
    (s.setReg off' v).regValue off = s.regValue off := by
  unfold State.setReg
  split_ifs with h0 h1 h2 h3 h4 h5
  case neg => rfl
  all_goals
    subst off'
    simp only [State.regValue, h, if_false]
    rfl

/-- A register access that is no aligned word is refused (R66, U6). -/
theorem hostTurn_writeReg_unaligned {s : State} {off : Nat} (h : off % 4 ≠ 0) (v : Word) :
    hostTurn s (.writeReg off v) = .refused (.registerAccess off) := if_pos h

theorem hostTurn_readReg_unaligned {s : State} {off : Nat} (h : off % 4 ≠ 0) :
    hostTurn s (.readReg off) = .refused (.registerAccess off) := if_pos h

/-- A write of a reserved offset is ignored (U7). -/
theorem hostTurn_writeReg_reserved {s : State} {off : Nat} (haligned : off % 4 = 0) (h : 0x2C ≤ off) (v : Word) :
    hostTurn s (.writeReg off v) = .next s := by
  simp [hostTurn, hostWriteReg, haligned, reservedOffset, h]

/-- A write of a register while a command runs is refused (R72, R420). -/
theorem hostTurn_writeReg_busy {s : State} {off : Nat} (haligned : off % 4 = 0) (h : off < 0x2C) (hbusy : s.busy = true)
    (v : Word) : hostTurn s (.writeReg off v) = .refused .hostBusy := by
  have hreg : ¬ reservedOffset off = true := by simpa [reservedOffset] using h
  change hostWriteReg s off v = _
  rw [hostWriteReg, if_neg (not_not.2 haligned), if_neg hreg]
  split_ifs
  · exact if_pos hbusy
  · rfl

/-- A write of a register other than `CMD` while the engine is idle (R21). -/
theorem hostTurn_writeReg_idle {s : State} {off : Nat} (haligned : off % 4 = 0) (h : off < 0x2C) (h0 : off ≠ 0x00)
    (hidle : s.busy = false) (v : Word) : hostTurn s (.writeReg off v) = .next (s.setReg off v) := by
  have hreg : reservedOffset off = false := by simpa [reservedOffset] using h
  simp [hostTurn, hostWriteReg, haligned, hreg, h0, hidle]

/-- Settles O29: the write reaches the named argument and no other field. -/
theorem hostWritesArgument : Obligations.HostWritesArgument := by
  intro s i v rest hi ha hidle
  have hrun : step s = .next (State.setReg { s with host := rest } (0x10 + 4 * i) v) := by
    rw [step_of_hostTurnNext ha hidle]
    exact hostTurn_writeReg_idle (s := { s with host := rest }) (by omega) (by omega) (by omega) hidle v
  refine ⟨_, hrun, ?_, fun off hoff => ?_, ?_⟩
  · have hcases : i = 0 ∨ i = 1 ∨ i = 2 ∨ i = 3 ∨ i = 4 ∨ i = 5 := by omega
    obtain rfl | rfl | rfl | rfl | rfl | rfl := hcases <;> rfl
  · rw [State.regValue_setReg_ne _ hoff]
    rfl
  · unfold State.setReg
    split_ifs <;> rfl

theorem resultRegister_iff (off : Nat) : resultRegister off = true ↔ off = 0x08 ∨ off = 0x0C ∨ off = 0x28 := by
  simp [resultRegister, or_assoc]

/-- `CMD` and the reserved offsets read 0 (R21). -/
theorem State.regValue_of_no_register (s : State) {off : Nat} (h : off = 0 ∨ 0x2C ≤ off) : s.regValue off = 0#32 := by
  unfold State.regValue
  split_ifs
  case neg => rfl
  all_goals omega

/-- A host read gives the register's value, but of a result register while a command runs (R21, R420). -/
theorem hostTurn_readReg {s : State} {off : Nat} (haligned : off % 4 = 0)
    (h : s.busy = false ∨ off ≠ 0x08 ∧ off ≠ 0x0C ∧ off ≠ 0x28) :
    hostTurn s (.readReg off) = .next { s with bus := s.regValue off } := by
  have hstable : (s.busy && resultRegister off) = false := by
    obtain hidle | hoff := h
    · rw [hidle, Bool.false_and]
    · rw [Bool.and_eq_false_iff, ← Bool.not_eq_true, ← Bool.not_eq_true, resultRegister_iff]
      exact .inr (by omega)
  simp [hostTurn, State.hostReadReg, haligned, hstable]

/-- A result register reads as a free value while a command runs (R420, log 9). -/
theorem hostTurn_readReg_transitional {s : State} {off : Nat} (hbusy : s.busy = true)
    (h : off = 0x08 ∨ off = 0x0C ∨ off = 0x28) :
    hostTurn s (.readReg off) =
      .next { s with bus := transitionalValue off (Config.freeWord s.serial), serial := s.serial + 1 } := by
  have haligned : off % 4 = 0 := by omega
  simp [hostTurn, State.hostReadReg, haligned, hbusy, (resultRegister_iff off).2 h]

/-- A free `ERRCODE` is still one of the seven codes (R25, R371). -/
theorem transitionalValue_errcode_le (v : Word) : (transitionalValue 0x0C v).toNat ≤ 6 := by
  rw [transitionalValue, if_pos rfl, BitVec.toNat_ofNat]
  omega

/-- Settles O30: the register map, and the reads and ignored writes by offset and by `BUSY`. -/
theorem hostReadsRegisters : Obligations.HostReadsRegisters := by
  intro s off v rest haligned
  have hcode : s.regValue 0x0C = s.errcode.code := rfl
  refine ⟨⟨rfl, rfl, rfl, rfl, rfl, rfl, rfl, rfl, rfl⟩, ?_, s.regValue_of_no_register, fun hread ha => ?_,
    fun hbusy hoff ha => ?_, fun hoff ha => ?_⟩
  · rw [hcode]
    refine ⟨?_, ?_, ?_, ?_, ?_, ?_, ?_⟩
    all_goals
      intro herr
      rw [herr]
      rfl
  · rw [step_of_hostTurnNext_of_ne ha nofun]
    exact hostTurn_readReg haligned hread
  · refine ⟨_, (step_of_hostTurnNext_of_ne ha nofun).trans (hostTurn_readReg_transitional hbusy hoff), rfl, ?_⟩
    rintro rfl
    exact transitionalValue_errcode_le _
  · rw [step_of_hostTurnNext_of_ne ha nofun]
    exact hostTurn_writeReg_reserved haligned hoff v

/-! ### Memories -/

theorem hostTurn_readMem_busy {s : State} (hbusy : s.busy = true) (sp : Space) (a : Nat) :
    hostTurn s (.readMem sp a) = .refused .hostBusy := if_pos hbusy

theorem hostTurn_writeMem_busy {s : State} (hbusy : s.busy = true) (sp : Space) (a : Nat) (b : Byte) :
    hostTurn s (.writeMem sp a b) = .refused .hostBusy := if_pos hbusy

/-- Settles O31: the refusals of a busy engine, and of a register access that is not aligned. -/
theorem busyHostStepsRefused : Obligations.BusyHostStepsRefused := by
  intro s rest
  refine ⟨fun off v hbusy haligned hoff ha => ?_, fun sp a hbusy ha => ?_, fun sp a b hbusy ha => ?_,
    fun off hoff ha => ?_, fun off v hoff ha => ?_⟩
  all_goals rw [step_of_hostTurnNext_of_ne ha nofun]
  · exact hostTurn_writeReg_busy (s := { s with host := rest }) haligned hoff hbusy v
  · exact hostTurn_readMem_busy (s := { s with host := rest }) hbusy sp a
  · exact hostTurn_writeMem_busy (s := { s with host := rest }) hbusy sp a b
  · exact hostTurn_readReg_unaligned hoff
  · exact hostTurn_writeReg_unaligned hoff v

section
variable {s : State} (hidle : s.busy = false) (sp : Space) {a : Nat}
include hidle

theorem hostTurn_readMem (ha : a < 131072) :
    hostTurn s (.readMem sp a) = .next { s with bus := (s.readByte sp a).setWidth 32 } := by
  have hcap : ¬ Config.memCap ≤ a := Nat.not_le.2 ha
  simp [hostTurn, State.hostReadMem, hidle, hcap]

theorem hostTurn_readMem_beyond (ha : 131072 ≤ a) : hostTurn s (.readMem sp a) = .fault (.noSuchAddress sp a) := by
  have hcap : Config.memCap ≤ a := ha
  simp [hostTurn, State.hostReadMem, hidle, hcap]

theorem hostTurn_writeMem (ha : a < 131072) (b : Byte) :
    hostTurn s (.writeMem sp a b) = .next (s.writeBytes sp a [b]) := by
  have hcap : ¬ Config.memCap ≤ a := Nat.not_le.2 ha
  simp [hostTurn, State.hostWriteMem, hidle, hcap]

theorem hostTurn_writeMem_beyond (ha : 131072 ≤ a) (b : Byte) :
    hostTurn s (.writeMem sp a b) = .fault (.noSuchAddress sp a) := by
  have hcap : Config.memCap ≤ a := ha
  simp [hostTurn, State.hostWriteMem, hidle, hcap]

end

/-- One byte written is read back at its place, and no other byte of any memory changes (R60, R71). -/
theorem State.readByte_writeBytes_one (s : State) (sp sp' : Space) (a x : Nat) (b : Byte) :
    (s.writeBytes sp a [b]).readByte sp' x = if sp' = sp ∧ x = a then b else s.readByte sp' x := by
  by_cases hsp : sp' = sp
  · subst hsp
    rw [State.readByte_writeBytes_same]
    by_cases hx : x = a
    · simp [hx]
    · rw [dif_neg (by simp; omega), if_neg (fun h => hx h.2)]
  · rw [State.readByte_writeBytes_ne s hsp, if_neg (fun h => hsp h.1)]

theorem run_succ_of_next {s t : State} (h : step s = .next t) (n : Nat) :
    Host.Core.run core (n + 1) s = Host.Core.run core n t := by
  have hstep : core.step s = .next t := h
  simp only [Host.Core.run, hstep]

theorem run_succ_of_fault {s : State} {r : Fault} (h : step s = .fault r) (n : Nat) :
    Host.Core.run core (n + 1) s = .fault r := by
  have hstep : core.step s = .fault r := h
  simp only [Host.Core.run, hstep]

/-- Settles O32: the write and the read are one step each, and the address decides whether there is a byte. -/
theorem hostByteWriteReadsBack : Obligations.HostByteWriteReadsBack := by
  intro s sp sp' a x b hidle hhost
  have hwrite : step s = hostTurn { s with host := [.readMem sp' x] } (.writeMem sp a b) :=
    step_of_hostTurnNext hhost hidle
  set u : State := State.writeBytes { s with host := [.readMem sp' x] } sp a [b] with hu
  have huidle : u.busy = false := by simp [hu, hidle]
  have hread : step u = hostTurn { u with host := [] } (.readMem sp' x) :=
    step_of_hostTurnNext (by simp [hu, State.hostTurnNext]) huidle
  have hfirst : a < 131072 → Host.Core.run core 2 s = Host.Core.run core 1 u := fun ha =>
    run_succ_of_next (hwrite.trans (hostTurn_writeMem (s := { s with host := [.readMem sp' x] }) hidle sp ha b)) 1
  have hbytes : ∀ sp'' y, u.readByte sp'' y = if sp'' = sp ∧ y = a then b else s.readByte sp'' y := fun sp'' y => by
    rw [hu, State.readByte_writeBytes_one]
    rfl
  refine ⟨fun ha hx => ?_, fun ha hx => ?_, fun ha => ?_⟩
  · have hnext := hread.trans (hostTurn_readMem (s := { u with host := [] }) huidle sp' hx)
    refine ⟨_, (hfirst ha).trans (run_succ_of_next hnext 0), ?_, fun sp'' y => hbytes sp'' y⟩
    rw [← hbytes]
    rfl
  · exact (hfirst ha).trans
      (run_succ_of_fault (hread.trans (hostTurn_readMem_beyond (s := { u with host := [] }) huidle sp' hx)) 0)
  · exact hwrite.trans (hostTurn_writeMem_beyond (s := { s with host := [.readMem sp' x] }) hidle sp ha b)

/-! ### How a command ends -/

/-- A state at the end of a command: done, `ERR` exactly for an error kind, and then `RESULT` −1 (R330, R372). -/
structure State.Ended (t : State) : Prop where
  idle : t.busy = false
  done : t.done = true
  flag : t.err = true ↔ t.errcode ≠ .ok
  minusOne : t.errcode ≠ .ok → t.result = 0xFFFFFFFF#32

theorem State.ended_raise (s : State) {k : ErrKind} (h : k ≠ .ok) : (s.raise k).Ended :=
  ⟨rfl, rfl, ⟨fun _ => h, fun _ => rfl⟩, fun _ => rfl⟩

theorem State.ended_finish (s : State) (r : Word) : (s.finish r).Ended :=
  ⟨rfl, rfl, ⟨nofun, fun h => absurd rfl h⟩, fun h => absurd rfl h⟩

theorem State.ended_shrinkEnd (s : State) (inputSize cap : Nat) (out : List Byte) : (s.shrinkEnd inputSize cap out).Ended := by
  unfold State.shrinkEnd
  split_ifs
  · exact State.ended_raise _ nofun
  · exact State.ended_raise _ nofun
  · exact State.ended_finish _ _

theorem execInit_ended (s : State) : ∃ t, execInit s = .next t ∧ t.Ended := by
  unfold execInit
  split_ifs
  case neg => exact ⟨_, rfl, State.ended_finish _ _⟩
  all_goals exact ⟨_, rfl, State.ended_raise _ nofun⟩

theorem execShrink_ended (s : State) : ∃ t, execShrink s = .next t ∧ t.Ended := by
  simp only [execShrink]
  split_ifs
  case neg => exact ⟨_, rfl, State.ended_shrinkEnd _ _ _ _⟩
  all_goals exact ⟨_, rfl, State.ended_raise _ nofun⟩

theorem execGetcount_ended (s : State) : ∃ t, execGetcount s = .next t ∧ t.Ended := by
  unfold execGetcount
  split_ifs
  · exact ⟨_, rfl, State.ended_raise _ nofun⟩
  · exact ⟨_, rfl, State.ended_finish _ _⟩

theorem execExpand_ended_or_starts (s : State) :
    (∃ t, execExpand s = .next t ∧ t.Ended) ∨ execExpand s = .next s.startDecode := by
  unfold execExpand
  split_ifs
  case neg => exact .inr rfl
  all_goals exact .inl ⟨_, rfl, State.ended_raise _ nofun⟩

/-- The five commands by opcode (R91). -/
theorem decode_cmdw_cases (w : Word) :
    (w.toNat % 16 = 0 ∨ 6 ≤ w.toNat % 16) ∨
      ∃ i, decode .cmdw (bytesOfWord w) = .instr i 4 ∧
        (i = .init ∨ i = .destroy ∨ i = .shrink ∨ i = .getcount ∨ i = .expand ∧ w.toNat % 16 = 5) := by
  simp only [decode, bytesOfWord, decodeCmdw, opcode_of_word]
  split_ifs with h1 h2 h3 h4 h5
  · exact .inr ⟨_, rfl, .inl rfl⟩
  · exact .inr ⟨_, rfl, .inr (.inl rfl)⟩
  · exact .inr ⟨_, rfl, .inr (.inr (.inl rfl))⟩
  · exact .inr ⟨_, rfl, .inr (.inr (.inr (.inl rfl)))⟩
  · exact .inr ⟨_, rfl, .inr (.inr (.inr (.inr ⟨rfl, h5⟩)))⟩
  · exact .inl (by omega)

/-- Settles O27: a reserved opcode ends, and so does each command, but for an `EXPAND` with legal operands, which starts. -/
theorem commandWriteEndsOrStarts : Obligations.CommandWriteEndsOrStarts := by
  intro s w rest ha hidle
  have hends : ∀ o : Host.Outcome State Fault Refusal, step s = o → (∃ t, o = .next t ∧ t.Ended) →
      ∃ t, step s = .next t ∧ (t.busy = false ∧ t.done = true ∧ (t.err = true ↔ t.errcode ≠ .ok) ∧
        (t.errcode ≠ .ok → t.result = 0xFFFFFFFF#32) ∨
        w.toNat % 16 = 5 ∧ t.busy = true ∧ t.done = false ∧ t.err = false ∧ t.result = 0#32 ∧ t.errcode = .ok) := by
    rintro o hstep ⟨t, ho, hidle, hdone, hflag, hminus⟩
    exact ⟨t, hstep.trans ho, .inl ⟨hidle, hdone, hflag, hminus⟩⟩
  obtain hreserved | ⟨i, hdecode, hi⟩ := decode_cmdw_cases w
  · exact hends _ (reservedOpcodeIsBadArg s w rest ha hidle hreserved)
      ⟨_, rfl, State.ended_raise { s with host := rest, cmd := w } (k := .badArg) nofun⟩
  · have hstep := stepRunsTheCommand s w rest i 4 ha hidle hdecode
    obtain rfl | rfl | rfl | rfl | ⟨rfl, hop⟩ := hi
    · exact hends _ hstep (execInit_ended _)
    · exact hends _ hstep ⟨_, rfl, State.ended_finish _ _⟩
    · exact hends _ hstep (execShrink_ended _)
    · exact hends _ hstep (execGetcount_ended _)
    · obtain hend | hstart := execExpand_ended_or_starts (State.beginCommand { s with host := rest } w)
      · exact hends _ hstep hend
      · exact ⟨_, hstep.trans hstart, .inr ⟨hop, rfl, rfl, rfl, rfl, rfl⟩⟩

end Sys2Proof.Machine
end

section
/-! The parts of a command in the Block Decoder (45_block_decoder.md sections 3 to 7): a literal run that ends the block, a
whole command, a command that waits for an extension, the EOD marker, and the overlapping copy. -/

namespace Sys2Proof.Machine

/-! ### Waiting and ending -/

/-- Settles O33: the seven tokens, whose full literal field gives no inline count. -/
theorem tokenWaitsForLiteralExtension : Obligations.TokenWaitsForLiteralExtension := by
  intro i s f m x h
  cases i with
  | v1Cmd8 lll mmmm | v1Cmd16 lll mmmm =>
    obtain ⟨hfull, h⟩ := Option.ite_none_right_eq_some.1 h
    cases h
    have hinline : v1Inline lll = none := by simp [v1Inline, hfull]
    simp only [exec, execV1Cmd8, execV1Cmd16, hinline]
    rfl
  | v2Off5 z ll mmm | v2Off9 z ll mmm | v2Off13 z ll mmm | v2Off16 ll mmm | v2Rep ll mmm =>
    obtain ⟨hfull, h⟩ := Option.ite_none_right_eq_some.1 h
    cases h
    have hinline : v2Inline ll = none := by simp [v2Inline, hfull]
    simp only [exec, execV2Off5, execV2Off9, execV2Off13, execV2Off16, execV2Rep, hinline]
    rfl
  | _ => cases h

/-! ### Decoder registers do not reach the bytes -/

@[simp] theorem State.readBytes_withDec (s : State) (d : Dec) (sp : Space) (a n : Nat) :
    (s.withDec d).readBytes sp a n = s.readBytes sp a n := State.readBytes_congr fun _ _ => State.readByte_withDec ..

theorem State.writeBytes_withDec (s : State) (d : Dec) (sp : Space) (a : Nat) (bs : List Byte) :
    (s.withDec d).writeBytes sp a bs = (s.writeBytes sp a bs).withDec d := by
  cases sp <;> rfl

theorem State.copyForward_withDec (s : State) (d : Dec) (off op n : Nat) :
    (s.withDec d).copyForward off op n = (s.copyForward off op n).withDec d := by
  induction n generalizing s op with
  | zero => rfl
  | succ n ih => rw [State.copyForward, State.copyForward, State.writeBytes_withDec, ih, State.readByte_withDec]

/-- The literals are those of the state before its token fields were held. -/
theorem State.atOffset_eq (s : State) (k : LiteralKnown) :
    s.atOffset k = (s.literalsCopied k.nlit).withDec
      { s.dec with ip := s.dec.ip + k.nlit, op := s.dec.op + k.nlit, tokForm := k.form, tokM := k.field } := by
  have hcopied : (s.holding k).literalsCopied k.nlit = (s.literalsCopied k.nlit).withDec (s.holding k).dec := by
    rw [State.literalsCopied, State.holding, State.readBytes_withDec, State.writeBytes_withDec]
    rfl
  rw [State.atOffset, hcopied]
  rfl

/-- A literal run that reaches the end of the input ends the stream behind the literals (R275). -/
theorem State.literalPart_holding_of_end {s : State} {k : LiteralKnown} (hip : s.dec.ip + k.nlit = s.dec.dinsz)
    (hop : s.dec.op + k.nlit ≤ s.dec.dcap) : (s.holding k).literalPart k.nlit = (s.atOffset k).streamEnd := by
  have hend : (s.holding k).dec.ip + k.nlit = (s.holding k).dec.dinsz := hip
  rw [State.literalPart_of_fits (s := s.holding k) hend.le hop, if_pos hend]
  rfl

/-- Settles O34. -/
theorem literalRunEndsFramedBlock : Obligations.LiteralRunEndsFramedBlock := by
  intro i s k hk hframed hip hop
  rw [exec_of_literalKnown hk, State.literalPart_holding_of_end hip hop, State.streamEnd_framed (by exact hframed),
    State.atOffset_eq]
  rfl

/-! ### Whole commands -/

/-- Settles O35: behind the literals and the offset field the inline length goes to the match part, whose checks pass. -/
theorem commandWithInlineMatchCompletes : Obligations.CommandWithInlineMatchCompletes := by
  intro i s k o len hk hip hop hw hlen hoff hback hfits
  rw [exec_of_literalKnown hk, State.literalPart_holding hip hop, State.offsetPart_atOffset hw hlen,
    State.matchPart_of_fits (by exact hoff) (by exact hback) (by exact hfits), State.copyForward_withDec,
    State.atOffset_eq, State.copyForward_withDec]
  rfl

/-- The format of a command's match extension (R104, R116). -/
theorem OffForm.matchExt_eq (f : OffForm) : f.matchExt = matchExtensionFormat f := by cases f <;> rfl

/-- A full match field makes the offset part wait for the extension, with the offset held (R276). -/
theorem State.offsetPart_atOffset_of_full {s : State} {k : LiteralKnown} {o : WireOffset}
    (hw : wireOffset s (s.dec.ip + k.nlit) k.form = some o) (hfull : inlineMatchLength k.form k.field = none) :
    (s.atOffset k).offsetPart =
      ((s.atOffset k).withDec { ((s.atOffset k).afterOffset o).dec with moff := o.off }).expecting
        (matchExtensionFormat k.form) := by
  have hinline : ((s.atOffset k).afterOffset o).dec.tokForm.inlineMatch ((s.atOffset k).afterOffset o).dec.tokM = none :=
    (k.form.inlineMatch_eq k.field).trans hfull
  rw [State.offsetPart_of_some (fetchOffset_atOffset hw), hinline, ← OffForm.matchExt_eq]
  rfl

/-- Settles O36. -/
theorem commandWaitsForMatchExtension : Obligations.CommandWaitsForMatchExtension := by
  intro i s k o hk hip hop hw hfull
  rw [exec_of_literalKnown hk, State.literalPart_holding hip hop, State.offsetPart_atOffset_of_full hw hfull,
    State.atOffset_eq]
  rfl

/-- Settles O37: a length above 0 is not the reserved `V2.MLX16` (R303), and the checks of the match part pass. -/
theorem matchExtensionCompletes : Obligations.MatchExtensionCompletes := by
  intro i s len hlen hpos hoff hback hfits
  have hne : i ≠ .v2Mlx16 0#16 := by
    rintro rfl
    cases hlen
    exact absurd hpos (by decide)
  rw [exec_of_extendedMatchLength hlen, if_neg hne, State.matchPart_of_fits hoff hback hfits]
  rfl

/-! ### The EOD marker -/

theorem exec_of_eod {i : Instr} (h : i = .v1Eod ∨ i = .v2Eod) (s : State) : exec i s = .next s.endOfData := by
  obtain rfl | rfl := h <;> rfl

/-- Settles O38. -/
theorem endOfDataMarker : Obligations.EndOfDataMarker := by
  intro i s hi
  rw [exec_of_eod hi, State.endOfData_eq]
  refine ⟨fun hraw hend => ?_, fun hbad => ⟨s.formatError, ?_, formatErrorFrom_self s⟩⟩
  · rw [if_pos ⟨hraw, hend⟩]
    rfl
  · have hnot : ¬ (s.dec.draw = true ∧ s.dec.ip = s.dec.dinsz) := by
      rintro ⟨hraw, hend⟩
      obtain hframed | hmore := hbad
      · exact absurd (hraw.symm.trans hframed) nofun
      · exact hmore hend
    rw [if_neg hnot]

/-! ### Truncated offset fields -/

/-- The decoder fetches no offset where the wire holds none (R272), for each of the seven forms. -/
theorem State.fetchOffset_of_wireOffset_none {s : State} {f : OffForm} (hw : wireOffset s s.dec.ip f = none) :
    s.fetchOffset f = none := by
  cases f with
  | o8 | off9 z =>
    simp only [wireOffset, ite_eq_right_iff, reduceCtorEq, imp_false, Nat.not_lt] at hw
    simp [State.fetchOffset, State.getByte_of_ge hw]
  | o16 | off16 =>
    simp only [wireOffset, ite_eq_right_iff, reduceCtorEq, imp_false, Nat.not_lt] at hw
    obtain hlt | hge := Nat.lt_or_ge s.dec.ip s.dec.dinsz
    · simp [State.fetchOffset, State.getByte, hlt, Nat.not_lt.2 hw]
    · simp [State.fetchOffset, State.getByte_of_ge hge]
  | off5 z =>
    simp only [wireOffset] at hw
    split at hw
    · cases hw
    · rename_i hnibble
      simp [State.fetchOffset, State.getNibble_of_wireNibble_none hnibble]
  | off13 z =>
    simp only [wireOffset] at hw
    split at hw
    · rename_i v q h n hnibble
      simp only [ite_eq_right_iff, reduceCtorEq, imp_false, Nat.not_lt] at hw
      obtain ⟨x, -, hx⟩ := State.getNibble_of_wireNibble hnibble
      simp [State.fetchOffset, hx, State.getByte, Nat.not_lt.2 hw]
    · rename_i hnibble
      simp [State.fetchOffset, State.getNibble_of_wireNibble_none hnibble]
  | rep => cases hw

/-- The literals leave `DIN` alone, so a field that the wire does not hold is missing behind them. -/
theorem fetchOffset_atOffset_of_none {s : State} {k : LiteralKnown}
    (hw : wireOffset s (s.dec.ip + k.nlit) k.form = none) : (s.atOffset k).fetchOffset k.form = none := by
  refine State.fetchOffset_of_wireOffset_none ?_
  have hdin : ∀ a, (s.atOffset k).readByte .din a = s.readByte .din a := fun a => by
    rw [State.atOffset_eq, State.readByte_withDec, State.readByte_literalsCopied_ne _ _ (by decide)]
  exact (wireOffset_congr hdin rfl rfl rfl rfl _ _).trans hw

/-- Settles O39: a run that does not fit ends before the literals are copied, the other two causes behind them. -/
theorem literalPartErrors : Obligations.LiteralPartErrors := by
  intro i s k hk hdoff hbad
  rw [exec_of_literalKnown hk]
  by_cases hfits : s.dec.ip + k.nlit ≤ s.dec.dinsz ∧ s.dec.op + k.nlit ≤ s.dec.dcap
  case neg =>
    refine ⟨(s.holding k).formatError, ?_, formatErrorFrom_formatError rfl rfl rfl fun a _ => s.readByte_holding k .dout a⟩
    rw [State.literalPart_of_misfit (s := s.holding k)]
    change s.dec.dinsz < s.dec.ip + k.nlit ∨ s.dec.dcap < s.dec.op + k.nlit
    omega
  case pos =>
    obtain ⟨hip, hop⟩ := hfits
    refine ⟨(s.atOffset k).formatError, ?_, formatErrorFrom_afterLiterals (s.atOffset k).dec hdoff hop rfl rfl⟩
    obtain hlong | hlong | ⟨hend, hraw⟩ | ⟨hmore, hw⟩ := hbad
    · omega
    · omega
    · rw [State.literalPart_holding_of_end hend hop, State.streamEnd_raw (by exact hraw)]
    · rw [State.literalPart_holding hmore hop, State.offsetPart_of_none (fetchOffset_atOffset_of_none hw)]

/-! ### The overlapping copy -/

/-- One byte of the pattern further: the byte just written closes a period of the copy. -/
theorem State.readByte_copied_pattern (s : State) {off op : Nat} (hoff : 1 ≤ off) (hback : off ≤ op) (i : Nat) :
    (s.writeBytes .dout op [s.readByte .dout (op - off)]).readByte .dout (op + 1 - off + i % off) =
      s.readByte .dout (op - off + (i + 1) % off) := by
  have hlt : i % off < off := Nat.mod_lt i hoff
  rw [State.readByte_writeBytes_one]
  by_cases hlast : i % off + 1 = off
  · have hmod : (i + 1) % off = 0 := by rw [← Nat.mod_add_mod, hlast, Nat.mod_self]
    rw [if_pos ⟨rfl, by omega⟩, hmod, Nat.add_zero]
  · have hmod : (i + 1) % off = i % off + 1 := by
      rw [← Nat.mod_add_mod, Nat.mod_eq_of_lt (by omega)]
    rw [if_neg (by omega), hmod]
    congr 1
    omega

/-- Settles O42, by induction on the length, the first byte being written before the others are copied. -/
theorem matchCopyRepeatsThePattern : Obligations.MatchCopyRepeatsThePattern := by
  intro s off op n hoff hback
  refine ⟨?_, fun a ha => State.copyForward_readByte_out s off op n a ha, fun sp a hsp =>
    State.copyForward_readByte_ne s hsp off op n a⟩
  induction n generalizing s op with
  | zero => exact fun i hi => absurd hi (Nat.not_lt_zero i)
  | succ n ih =>
    intro i hi
    rw [State.copyForward]
    cases i with
    | zero =>
      rw [State.copyForward_readByte_out _ _ _ _ _ (.inl (by omega)), State.readByte_writeBytes_one, if_pos ⟨rfl, rfl⟩,
        Nat.zero_mod, Nat.add_zero]
    | succ i =>
      have hnext := ih (s.writeBytes .dout op [s.readByte .dout (op - off)]) (op + 1) (by omega) i (by omega)
      rw [show op + (i + 1) = op + 1 + i by omega, hnext, State.readByte_copied_pattern s hoff hback]

end Sys2Proof.Machine
end

section
/-! What a step of the Block Decoder can do (R63, R64, R272 to R276, R311, R312): the cursors go forward, bytes change in
the output range only, and the command goes on or ends. The frame of the stream forms follows from it, and so do the
invariant of the machine and the end of every `EXPAND`. -/

namespace Sys2Proof.Machine

/-! ### Going forward in a command -/

/-- `d` has the operands of the `EXPAND` whose registers are `e` (R271): no form of the stream changes them. -/
structure Dec.SameOperands (d e : Dec) : Prop where
  dfmt : d.dfmt = e.dfmt
  draw : d.draw = e.draw
  dinsz : d.dinsz = e.dinsz
  doff : d.doff = e.doff
  dcap : d.dcap = e.dcap

theorem Dec.SameOperands.refl (d : Dec) : d.SameOperands d := ⟨rfl, rfl, rfl, rfl, rfl⟩

theorem Dec.SameOperands.trans {d e f : Dec} (h : d.SameOperands e) (k : e.SameOperands f) : d.SameOperands f :=
  ⟨h.dfmt.trans k.dfmt, h.draw.trans k.draw, h.dinsz.trans k.dinsz, h.doff.trans k.doff, h.dcap.trans k.dcap⟩

/-- The stream position in nibbles of `d` is not before that of `e`: a buffered nibble is still to be read. -/
def Dec.notBefore (d e : Dec) : Prop := 2 * e.ip + d.nibh.toNat ≤ 2 * d.ip + e.nibh.toNat

/-- The stream position of `d` is at least one nibble after that of `e`. -/
def Dec.after (d e : Dec) : Prop := 2 * e.ip + d.nibh.toNat < 2 * d.ip + e.nibh.toNat

/-- The values of the decoder's registers that a form of the stream keeps in range (R30, R31). -/
structure Dec.KeepsRange (d e : Dec) : Prop where
  ip : e.ip ≤ e.dinsz → d.ip ≤ e.dinsz
  opUp : e.op ≤ d.op
  op : e.op ≤ e.dcap → d.op ≤ e.dcap
  rep : e.rep ≤ 65536 → e.moff ≤ 65536 → d.rep ≤ 65536
  moff : e.rep ≤ 65536 → e.moff ≤ 65536 → d.moff ≤ 65536
  expect : e.expect ≠ .cmdw → d.expect ≠ .cmdw

/-- `u` comes after `s` in a running `EXPAND`: decoder registers and output bytes alone differ, the stream position has
not gone back, and everything that was in range still is. -/
structure State.Advanced (s u : State) : Prop where
  rest : u = { s with dec := u.dec, dout := u.dout }
  operands : u.dec.SameOperands s.dec
  forward : u.dec.notBefore s.dec
  range : u.dec.KeepsRange s.dec
  bytes : ∀ a, (a < s.dec.op ∨ s.dec.dcap ≤ a) → u.readByte .dout a = s.readByte .dout a
  memories : s.memoriesWf → s.dec.dcap ≤ Config.memCap → u.memoriesWf

theorem Dec.KeepsRange.trans {d e f : Dec} (h : d.KeepsRange e) (hs : e.SameOperands f) (k : e.KeepsRange f) :
    d.KeepsRange f where
  ip hf := hs.dinsz ▸ h.ip (hs.dinsz ▸ k.ip hf)
  opUp := k.opUp.trans h.opUp
  op hf := hs.dcap ▸ h.op (hs.dcap ▸ k.op hf)
  rep hrep hmoff := h.rep (k.rep hrep hmoff) (k.moff hrep hmoff)
  moff hrep hmoff := h.moff (k.rep hrep hmoff) (k.moff hrep hmoff)
  expect hf := h.expect (k.expect hf)

theorem State.Advanced.trans {s u v : State} (h : s.Advanced u) (k : u.Advanced v) : s.Advanced v where
  rest := by
    rw [k.rest, h.rest]
  operands := k.operands.trans h.operands
  forward := by
    have h1 := h.forward
    have h2 := k.forward
    unfold Dec.notBefore at *
    omega
  range := k.range.trans h.operands h.range
  bytes a ha := by
    have hop := h.range.opUp
    have hcap := h.operands.dcap
    rw [k.bytes a (by omega), h.bytes a ha]
  memories hs hcap := k.memories (h.memories hs hcap) (h.operands.dcap ▸ hcap)

/-- Changing decoder registers alone, within their ranges, goes forward. -/
theorem State.advanced_withDec {s : State} {d : Dec} (hoperands : d.SameOperands s.dec) (hforward : d.notBefore s.dec)
    (hrange : d.KeepsRange s.dec) : s.Advanced (s.withDec d) where
  rest := rfl
  operands := hoperands
  forward := hforward
  range := hrange
  bytes _ _ := State.readByte_withDec ..
  memories hs _ sp := (State.memOf_withDec s d sp).symm ▸ hs sp

theorem State.Advanced.refl (s : State) : s.Advanced s :=
  State.advanced_withDec (d := s.dec) (.refl _) le_rfl ⟨id, le_rfl, id, fun h _ => h, fun _ h => h, id⟩

/-- Expecting another format of the stream. -/
theorem State.advanced_expecting (s : State) {f : Format} (hf : f ≠ .cmdw) : s.Advanced (s.expecting f) :=
  State.advanced_withDec ⟨rfl, rfl, rfl, rfl, rfl⟩ le_rfl ⟨id, le_rfl, id, fun h _ => h, fun _ h => h, fun _ => hf⟩

/-- Holding the token's fields (R274). -/
theorem State.advanced_holding (s : State) (k : LiteralKnown) : s.Advanced (s.holding k) :=
  State.advanced_withDec ⟨rfl, rfl, rfl, rfl, rfl⟩ le_rfl ⟨id, le_rfl, id, fun h _ => h, fun _ h => h, id⟩

/-- A fetch goes forward (R272, R273). -/
theorem State.MovedTo.advanced {s t : State} (h : s.MovedTo t) : s.Advanced t := by
  rw [h.same]
  exact State.advanced_withDec ⟨rfl, rfl, rfl, rfl, rfl⟩ h.forward
    ⟨h.within, le_rfl, id, fun h _ => h, fun _ h => h, id⟩

/-- A fetched offset is held (R274). -/
theorem State.advanced_moff (s : State) {off : Nat} (h : s.dec.rep ≤ 65536 → off ≤ 65536) :
    s.Advanced (s.withDec { s.dec with moff := off }) :=
  State.advanced_withDec ⟨rfl, rfl, rfl, rfl, rfl⟩ le_rfl ⟨id, le_rfl, id, fun h _ => h, fun hrep _ => h hrep, id⟩

/-- Copied literals lie between `OP` and the output capacity (R280). -/
theorem State.advanced_literals {s : State} {n : Nat} (hip : s.dec.ip + n ≤ s.dec.dinsz) (hop : s.dec.op + n ≤ s.dec.dcap) :
    s.Advanced ((s.literalsCopied n).withDec { s.dec with ip := s.dec.ip + n, op := s.dec.op + n }) where
  rest := rfl
  operands := ⟨rfl, rfl, rfl, rfl, rfl⟩
  forward := by
    simp only [Dec.notBefore, State.withDec_dec]
    omega
  range := ⟨fun _ => hip, Nat.le_add_right _ _, fun _ => hop, fun h _ => h, fun _ h => h, id⟩
  bytes a ha := by
    rw [State.readByte_withDec, State.readByte_literalsCopied_out]
    omega
  memories hs hcap sp := by
    rw [State.memOf_withDec]
    exact State.memoriesWf_writeBytes hs (by rw [State.readBytes_length]; omega) sp

theorem tokenFormat_ne_cmdw (fmt : BitVec 2) : tokenFormat fmt ≠ .cmdw := by
  unfold tokenFormat
  split_ifs <;> decide

/-- The forward copy changes `DOUT` alone. -/
theorem State.copyForward_frame (s : State) (off op n : Nat) :
    s.copyForward off op n = { s with dout := (s.copyForward off op n).dout } := by
  induction n generalizing s op with
  | zero => rfl
  | succ n ih =>
    rw [State.copyForward, ih]
    rfl

/-- A copied match lies between `OP` and the output capacity (R307, R308). -/
theorem State.advanced_match {s : State} {len : Nat} (hop : s.dec.op + len ≤ s.dec.dcap) :
    s.Advanced ((s.copyForward s.dec.moff s.dec.op len).withDec
      { s.dec with op := s.dec.op + len, rep := s.dec.moff, expect := tokenFormat s.dec.dfmt }) where
  rest := by
    rw [State.copyForward_frame]
    rfl
  operands := ⟨rfl, rfl, rfl, rfl, rfl⟩
  forward := by simp [Dec.notBefore]
  range := ⟨id, Nat.le_add_right _ _, fun _ => hop, fun _ h => h, fun _ h => h, fun _ => tokenFormat_ne_cmdw _⟩
  bytes a ha := by
    rw [State.readByte_withDec, State.copyForward_readByte_out]
    omega
  memories hs hcap sp := by
    rw [State.memOf_withDec]
    exact State.memoriesWf_copyForward hs _ (hop.trans hcap) sp

/-! ### The parts of a command -/

/-- What a form of the stream can do: the command goes on further ahead, or ends there (R310, R374). -/
def State.Moves (s t : State) : Prop := ∃ u, s.Advanced u ∧ (t = u ∨ t = u.formatError ∨ t = u.expandDone)

theorem State.Advanced.moves {s u t : State} (h : s.Advanced u) (k : u.Moves t) : s.Moves t := by
  obtain ⟨v, hv, ht⟩ := k
  exact ⟨v, h.trans hv, ht⟩

theorem State.moves_formatError (s : State) : s.Moves s.formatError := ⟨s, .refl s, .inr (.inl rfl)⟩

theorem State.moves_expandDone (s : State) : s.Moves s.expandDone := ⟨s, .refl s, .inr (.inr rfl)⟩

theorem State.Advanced.going_on {s u : State} (h : s.Advanced u) : s.Moves u := ⟨u, h, .inl rfl⟩

theorem State.moves_streamEnd (s : State) : s.Moves s.streamEnd := by
  unfold State.streamEnd
  split_ifs
  · exact s.moves_formatError
  · exact s.moves_expandDone

theorem State.moves_endOfData (s : State) : s.Moves s.endOfData := by
  rw [State.endOfData_eq]
  split_ifs
  · exact s.moves_expandDone
  · exact s.moves_formatError

theorem State.moves_matchPart (s : State) (len : Nat) : s.Moves (s.matchPart len) := by
  by_cases hbad : s.dec.moff < 1 ∨ s.dec.op < s.dec.moff ∨ s.dec.dcap < s.dec.op + len
  · rw [State.matchPart_of_misfit hbad]
    exact s.moves_formatError
  · rw [State.matchPart_of_fits (by omega) (by omega) (by omega)]
    exact (State.advanced_match (by omega)).going_on

theorem State.moves_offsetPart (s : State) : s.Moves s.offsetPart := by
  cases hfetch : s.fetchOffset s.dec.tokForm with
  | none =>
    rw [State.offsetPart_of_none hfetch]
    exact s.moves_formatError
  | some r =>
    obtain ⟨off, t⟩ := r
    obtain ⟨hmoved, hoff⟩ := State.fetchOffset_moved hfetch
    have hrep : t.dec.rep = s.dec.rep := by rw [hmoved.same]; rfl
    have hheld : s.Advanced (t.withDec { t.dec with moff := off }) :=
      hmoved.advanced.trans (t.advanced_moff (hrep ▸ hoff))
    rw [State.offsetPart_of_some hfetch]
    split
    · exact hheld.moves (State.moves_matchPart _ _)
    · have hext : t.dec.tokForm.matchExt ≠ .cmdw := by rw [OffForm.matchExt]; split_ifs <;> decide
      exact (hheld.trans (State.advanced_expecting _ hext)).going_on

theorem State.moves_literalPart (s : State) (n : Nat) : s.Moves (s.literalPart n) := by
  by_cases hfits : s.dec.ip + n ≤ s.dec.dinsz ∧ s.dec.op + n ≤ s.dec.dcap
  · obtain ⟨hip, hop⟩ := hfits
    rw [State.literalPart_of_fits hip hop]
    split_ifs
    · exact (State.advanced_literals hip hop).moves (State.moves_streamEnd _)
    · exact (State.advanced_literals hip hop).moves (State.moves_offsetPart _)
  · rw [State.literalPart_of_misfit (by omega)]
    exact s.moves_formatError

/-! ### The stream forms -/

/-- A form of the stream is a token or extension that settles a literal count, a token that waits for one, a match
extension, or the EOD marker. -/
theorem streamForm_cases {i : Instr} (h : isStreamForm i = true) (d : Dec) :
    (∃ k, literalKnown d i = some k) ∨ (∃ f m x, literalWaits i = some (f, m, x) ∧ x ≠ .cmdw) ∨
      (∃ len, extendedMatchLength i = some len) ∨ i = .v1Eod ∨ i = .v2Eod := by
  cases i with
  | init | destroy | shrink | getcount | expand => cases h
  | v1Cmd8 lll m | v1Cmd16 lll m =>
    by_cases hfull : lll.toNat = 7
    · exact .inr (.inl ⟨_, _, _, if_pos hfull, nofun⟩)
    · exact .inl ⟨_, if_pos (by omega)⟩
  | v2Off5 z ll m | v2Off9 z ll m | v2Off13 z ll m | v2Off16 ll m | v2Rep ll m =>
    by_cases hfull : ll.toNat = 3
    · exact .inr (.inl ⟨_, _, _, if_pos hfull, nofun⟩)
    · exact .inl ⟨_, if_pos (by omega)⟩
  | v1Litx8 b | v1Litx9 b | v1Litx16 v | v2Litxn v | v2Litx8 b | v2Litx16 v => exact .inl ⟨_, rfl⟩
  | v1Mlx8 b | v1Mlx9 c | v1Mlx16 v | v2Mlxn v | v2Mlx8 b | v2Mlx16 v => exact .inr (.inr (.inl ⟨_, rfl⟩))
  | v1Eod => exact .inr (.inr (.inr (.inl rfl)))
  | v2Eod => exact .inr (.inr (.inr (.inr rfl)))

/-- Every form of the stream moves the decoder on, or ends the command (R312). -/
theorem exec_streamForm_moves {i : Instr} (h : isStreamForm i = true) (s : State) : ∃ t, exec i s = .next t ∧ s.Moves t := by
  obtain ⟨k, hk⟩ | ⟨f, m, x, hwaits, hx⟩ | ⟨len, hlen⟩ | heod := streamForm_cases h s.dec
  · exact ⟨_, exec_of_literalKnown hk, (s.advanced_holding k).moves (State.moves_literalPart _ _)⟩
  · refine ⟨_, tokenWaitsForLiteralExtension i s f m x hwaits, State.Advanced.going_on ?_⟩
    exact State.advanced_withDec ⟨rfl, rfl, rfl, rfl, rfl⟩ le_rfl
      ⟨id, le_rfl, id, fun h _ => h, fun _ h => h, fun _ => hx⟩
  · refine ⟨_, exec_of_extendedMatchLength hlen, ?_⟩
    split_ifs
    · exact s.moves_formatError
    · exact s.moves_matchPart len
  · exact ⟨_, exec_of_eod heod s, s.moves_endOfData⟩

/-- A move changes the result registers, the decoder and output bytes only (R355). -/
theorem State.Moves.frame {s t : State} (h : s.Moves t) :
    t = { s with
      busy := t.busy, done := t.done, err := t.err, result := t.result, errcode := t.errcode,
      dec := t.dec, dout := t.dout, serial := t.serial } := by
  obtain ⟨u, hu, rfl | rfl | rfl⟩ := h
  · rw [hu.rest]
  · rw [hu.rest]
    rfl
  · rw [hu.rest]
    rfl

/-- A move changes bytes of the output range only (R63, R64, R311). -/
theorem State.Moves.bytes {s t : State} (h : s.Moves t) (hdoff : s.dec.doff ≤ s.dec.op) {a : Nat}
    (ha : a < s.dec.doff ∨ s.dec.dcap ≤ a) : t.readByte .dout a = s.readByte .dout a := by
  obtain ⟨u, hu, ht⟩ := h
  have hkept := hu.bytes a (by omega)
  have hoff := hu.operands.doff
  have hcap := hu.operands.dcap
  obtain rfl | rfl | rfl := ht
  · exact hkept
  · rw [State.formatError, State.readByte_raise, State.readByte_unspecify_out _ _ _ _ _ _ (.inr (by omega)), hkept]
  · rw [State.expandDone, State.readByte_finish, hkept]

/-- Settles O41: each form moves the decoder, and moves have a frame and keep the bytes outside the output range. -/
theorem streamFormsStayInBounds : Obligations.StreamFormsStayInBounds := by
  intro i s t hi hdoff hrun
  obtain ⟨u, hu, hmoves⟩ := exec_streamForm_moves hi s
  obtain rfl : u = t := Host.Outcome.next.inj (hu.symm.trans hrun)
  exact ⟨fun a ha => hmoves.bytes hdoff ha, hmoves.frame⟩

/-! ### The fetch goes forward -/

/-- A fetched instruction of the stream is a form of the stream, and leaves `IP` in the input behind its bytes. -/
theorem State.fetchBytes_advanced {s t : State} {i : Instr} (hexpect : s.dec.expect ≠ .cmdw)
    (h : s.fetchBytes = .instr i t) : isStreamForm i = true ∧ s.Advanced t ∧ t.dec.after s.dec := by
  unfold State.fetchBytes at h
  split at h
  case h_1 j n hdecode =>
    cases h
    obtain ⟨-, hformat, hlength, hfits, -⟩ := readsAs_of_decode hdecode
    have hpos : 1 ≤ (encode i).length := by cases i <;> exact Nat.le_add_left 1 _
    rw [State.streamBytes, State.readBytes_length] at hfits
    refine ⟨decide_eq_true (hformat ▸ hexpect), ?_, ?_⟩
    · refine State.advanced_withDec ⟨rfl, rfl, rfl, rfl, rfl⟩ ?_ ⟨fun hip => ?_, le_rfl, id, fun h _ => h, fun _ h => h, id⟩
      · simp only [Dec.notBefore]
        omega
      · change s.dec.ip + n ≤ s.dec.dinsz
        omega
    · simp only [Dec.after, State.withDec_dec]
      omega
  all_goals cases h

/-- A nibble of 15 goes on with a byte form (R111, R116). -/
theorem decode_nibble_escape {f g : Format} {v : BitVec 4} (hf : f.isNibble = true)
    (h : decode f [0#4 ++ v] = .escape g) : g ≠ .cmdw := by
  obtain rfl | rfl := (isNibble_iff f).1 hf
  · rw [decode_v2litxn_nibble] at h
    split_ifs at h
    cases h
    decide
  · rw [decode_v2mlxn_nibble] at h
    split_ifs at h
    cases h
    decide

section
variable {s t : State} (hnibble : s.dec.expect.isNibble = true)
include hnibble

theorem State.fetchNibble_instr_advanced {i : Instr} (h : s.fetchNibble = .instr i t) :
    isStreamForm i = true ∧ s.Advanced t ∧ t.dec.after s.dec := by
  unfold State.fetchNibble at h
  split at h
  case h_1 => cases h
  case h_2 v s1 hget =>
    obtain ⟨hmoved, hafter⟩ := State.getNibble_moved hget
    split at h
    case h_1 j n hdecode =>
      cases h
      have hformat : i.format ≠ .cmdw := by
        rw [(readsAs_of_decode hdecode).format]
        obtain hf | hf := (isNibble_iff _).1 hnibble <;> rw [hf] <;> decide
      exact ⟨decide_eq_true hformat, hmoved.advanced, hafter⟩
    all_goals cases h

theorem State.fetchNibble_escape_advanced (h : s.fetchNibble = .escape t) : s.Advanced t ∧ t.dec.after s.dec := by
  unfold State.fetchNibble at h
  split at h
  case h_1 => cases h
  case h_2 v s1 hget =>
    obtain ⟨hmoved, hafter⟩ := State.getNibble_moved hget
    split at h
    case h_2 f hdecode =>
      cases h
      exact ⟨hmoved.advanced.trans (State.advanced_expecting _ (decode_nibble_escape hnibble hdecode)), hafter⟩
    all_goals cases h

end

/-- A step of the running decoder: it goes on at least one nibble further, or the command ends. -/
def State.MovesOn (s t : State) : Prop :=
  ∃ u, s.Advanced u ∧ (t = u ∧ u.dec.after s.dec ∨ t = u.formatError ∨ t = u.expandDone)

/-- Behind a fetch that went forward, every move is a step. -/
theorem State.Moves.movesOn {s u t : State} (hu : s.Advanced u) (hafter : u.dec.after s.dec) (h : u.Moves t) :
    s.MovesOn t := by
  obtain ⟨v, hv, ht⟩ := h
  refine ⟨v, hu.trans hv, ht.imp_left fun ht => ⟨ht, ?_⟩⟩
  have hforward := hv.forward
  simp only [Dec.after, Dec.notBefore] at *
  omega

theorem State.Moves.movesOn_of_ends {s t : State} (h : t = s.formatError ∨ t = s.expandDone) : s.MovesOn t :=
  ⟨s, .refl s, .inr h⟩

/-- Outside a nibble form the fetch answers no escape. -/
theorem State.isNibble_of_fetch_escape {s t : State} (h : s.fetch = .escape t) : s.dec.expect.isNibble = true := by
  unfold State.fetch at h
  split_ifs at h with hend hnibble
  · exact hnibble
  · unfold State.fetchBytes at h
    split at h <;> cases h

/-- The engine's move is always a step of the decoder (R312). -/
theorem engineMove_movesOn {s : State} (hexpect : s.dec.expect ≠ .cmdw) : ∃ t, engineMove s = .next t ∧ s.MovesOn t := by
  have hform : ∀ {i t}, s.fetch = .instr i t → isStreamForm i = true ∧ s.Advanced t ∧ t.dec.after s.dec →
      ∃ t, engineMove s = .next t ∧ s.MovesOn t := fun hfetch ⟨hi, hadvanced, hafter⟩ => by
    obtain ⟨u, hu, hmoves⟩ := exec_streamForm_moves hi _
    exact ⟨u, (engineMove_of_fetch_instr hfetch).trans hu, hmoves.movesOn hadvanced hafter⟩
  cases hfetch : s.fetch with
  | formatError =>
    exact ⟨_, engineMove_of_fetch_formatError hfetch, State.Moves.movesOn_of_ends (.inl rfl)⟩
  | streamEnd =>
    refine ⟨_, engineMove_of_fetch_streamEnd hfetch, State.Moves.movesOn_of_ends ?_⟩
    unfold State.streamEnd
    split_ifs
    · exact .inl rfl
    · exact .inr rfl
  | instr i t =>
    cases hnibble : s.dec.expect.isNibble with
    | true =>
      exact hform hfetch (State.fetchNibble_instr_advanced hnibble ((State.fetch_of_nibble hnibble).symm.trans hfetch))
    | false =>
      have hmore : ¬ (tokenExpected s.dec.expect = true ∧ s.dec.ip = s.dec.dinsz) := fun ⟨htok, hend⟩ =>
        nomatch (State.fetch_of_streamEnd htok hend).symm.trans hfetch
      exact hform hfetch (State.fetchBytes_advanced hexpect ((State.fetch_of_bytes hmore hnibble).symm.trans hfetch))
  | escape t =>
    have hnibble := State.isNibble_of_fetch_escape hfetch
    obtain ⟨hadvanced, hafter⟩ :=
      State.fetchNibble_escape_advanced hnibble ((State.fetch_of_nibble hnibble).symm.trans hfetch)
    exact ⟨t, engineMove_of_fetch_escape hfetch, t, hadvanced, .inl ⟨rfl, hafter⟩⟩

/-! ### The invariant -/

/-- The canonical form is a property of the four memories alone. -/
theorem State.memoriesWf_congr {s t : State} (hs : s.memoriesWf) (h : ∀ sp, t.memOf sp = s.memOf sp) : t.memoriesWf :=
  fun sp => (h sp).symm ▸ hs sp

/-- Between commands the invariant speaks of the memories, the result registers and the context. -/
theorem State.Ended.inv {t : State} (h : t.Ended) (hmemories : t.memoriesWf) (hcontext : t.ctx.legal) : t.Inv where
  memories := hmemories
  decoder hbusy := absurd (h.idle.symm.trans hbusy) nofun
  cleared hbusy := absurd (h.idle.symm.trans hbusy) nofun
  flag := h.flag
  minusOne := h.minusOne
  context := hcontext

section
variable {s : State} (hs : s.Inv)
include hs

/-- The host's side, `CMD` and the arguments are no part of the invariant. -/
theorem State.Inv.of_host {t : State}
    (ht : t = { s with
      cmd := t.cmd, arg0 := t.arg0, arg1 := t.arg1, arg2 := t.arg2, arg3 := t.arg3, arg4 := t.arg4,
      arg5 := t.arg5, host := t.host, bus := t.bus, serial := t.serial }) : t.Inv := by
  obtain ⟨hmemories, hdecoder, hcleared, hflag, hminus, hcontext⟩ := hs
  rw [ht]
  exact ⟨State.memoriesWf_congr hmemories fun sp => by cases sp <;> rfl, hdecoder, hcleared, hflag, hminus, hcontext⟩

section
variable (hbusy : s.busy = true)
include hbusy

/-- What a step of the decoder goes on with meets the invariant. -/
theorem State.Inv.of_advanced {u : State} (hu : s.Advanced u) : u.Inv := by
  obtain ⟨hip, hdinsz, hdoff, hop, hdcap, hrep, hmoff, hdfmt, hexpect⟩ := hs.decoder hbusy
  obtain ⟨fdfmt, fdraw, fdinsz, fdoff, fdcap⟩ := hu.operands
  have hrange := hu.range
  have hmemories := hu.memories hs.memories hdcap
  have hup := hrange.opUp
  have hdecoder : u.dec.inRange :=
    ⟨fdinsz ▸ hrange.ip hip, fdinsz ▸ hdinsz, by omega, fdcap ▸ hrange.op hop, fdcap ▸ hdcap, hrange.rep hrep hmoff,
      hrange.moff hrep hmoff, fdfmt ▸ hdfmt, hrange.expect hexpect⟩
  have hrest := hu.rest
  rw [hrest] at hmemories ⊢
  exact ⟨hmemories, fun _ => hdecoder, hs.cleared, hs.flag, hs.minusOne, hs.context⟩

/-- A `FORMAT_ERROR` leaves the output range free, which the canonical form allows (R64). -/
theorem State.Inv.formatError : s.formatError.Inv := by
  obtain ⟨-, -, hdoff, hop, hdcap, -⟩ := hs.decoder hbusy
  have hfree := State.memoriesWf_unspecify hs.memories (sp := .dout) hdcap (hdoff.trans hop)
  exact (State.ended_raise _ (by decide)).inv (State.memoriesWf_congr hfree fun _ => State.memOf_raise ..)
    (by simpa [State.formatError] using hs.context)

/-- A step of the running decoder meets the invariant again. -/
theorem State.MovesOn.inv {t : State} (h : s.MovesOn t) : t.Inv := by
  obtain ⟨u, hu, ht⟩ := h
  have hinv := hs.of_advanced hbusy hu
  have hubusy : u.busy = true := by rw [hu.rest]; exact hbusy
  obtain ⟨rfl, -⟩ | rfl | rfl := ht
  · exact hinv
  · exact hinv.formatError hubusy
  · exact (State.ended_finish _ _).inv (State.memoriesWf_congr hinv.memories fun _ => State.memOf_finish ..) hinv.context

end

theorem State.Inv.engineMove (hbusy : s.busy = true) {t : State} (h : Machine.engineMove s = .next t) : t.Inv := by
  obtain ⟨-, -, -, -, -, -, -, -, hexpect⟩ := hs.decoder hbusy
  obtain ⟨u, hu, hmoves⟩ := engineMove_movesOn hexpect
  obtain rfl := Host.Outcome.next.inj (hu.symm.trans h)
  exact hmoves.inv hs hbusy

theorem State.Inv.engineTurn {t : State} (h : Machine.engineTurn s = .next t) : t.Inv := by
  cases hbusy : s.busy with
  | true => exact hs.engineMove hbusy ((if_pos hbusy).symm.trans h)
  | false =>
    have hidle : Machine.engineTurn s = .next s := if_neg (by simp [hbusy])
    obtain rfl := Host.Outcome.next.inj (hidle.symm.trans h)
    exact hs

end

/-! ### The invariant through the host commands -/

theorem Ctx.legal_dropped (c : Ctx) : ({ c with valid := false, cmdcount := 0#32 } : Ctx).legal := ⟨nofun, fun _ => rfl⟩

theorem Ctx.legal.cmdcount {c : Ctx} (h : c.legal) (hvalid : c.valid = true) (n : Word) :
    ({ c with cmdcount := n } : Ctx).legal := ⟨h.1, fun hdropped => absurd (hvalid.symm.trans hdropped) nofun⟩

section
variable {s t : State} (hmemories : s.memoriesWf)
include hmemories

theorem State.Inv.execInit (h : Machine.execInit s = .next t) : t.Inv := by
  have hdropped : ∀ k, k ≠ .ok → (s.dropContext.raise k).Inv := fun k hk =>
    (State.ended_raise _ hk).inv (State.memoriesWf_congr hmemories fun _ => by simp) (Ctx.legal_dropped _)
  unfold Machine.execInit at h
  split_ifs at h with hversion hflags hmin hwin
  case neg =>
    cases h
    obtain ⟨-, -, hfmt⟩ := setWidth_version ((legalVersion_iff _).1 (by simpa using hversion))
    have hfloor : minMatchFloor (s.arg2.setWidth 2) ≤ 3 := by unfold minMatchFloor; split_ifs <;> decide
    exact (State.ended_finish _ _).inv (State.memoriesWf_congr hmemories fun sp => by cases sp <;> rfl)
      ⟨fun _ => ⟨Nat.le_of_not_lt hwin, le_max_right _ _, max_le (Nat.le_of_not_lt hmin) (by omega), hfmt⟩, nofun⟩
  all_goals
    cases h
    exact hdropped _ nofun

theorem State.Inv.execDestroy (h : Machine.execDestroy s = .next t) : t.Inv := by
  cases h
  exact (State.ended_finish _ _).inv (State.memoriesWf_congr hmemories fun _ => by simp) (Ctx.legal_dropped _)

variable (hcontext : s.ctx.legal)
include hcontext

theorem State.Inv.raise {k : ErrKind} (hk : k ≠ .ok) : (s.raise k).Inv :=
  (State.ended_raise _ hk).inv (State.memoriesWf_congr hmemories fun _ => by simp) hcontext

theorem State.Inv.execGetcount (h : Machine.execGetcount s = .next t) : t.Inv := by
  unfold Machine.execGetcount at h
  split_ifs at h
  · cases h
    exact State.Inv.raise hmemories hcontext nofun
  · cases h
    exact (State.ended_finish _ _).inv (State.memoriesWf_congr hmemories fun _ => by simp) hcontext

/-- The end of `SHRINK` writes `COUT` below the capacity and sets the token count. -/
theorem State.Inv.shrinkEnd (hvalid : s.ctx.valid = true) {inputSize cap : Nat} {out : List Byte}
    (hcap : cap ≤ Config.memCap) : (s.shrinkEnd inputSize cap out).Inv := by
  obtain hsmall | hfits := Nat.lt_or_ge cap out.length
  · rw [State.shrinkEnd_of_too_small hsmall]
    exact State.Inv.raise (State.memoriesWf_unspecify hmemories hcap (Nat.zero_le _)) (by simpa using hcontext) nofun
  by_cases hraw : s.ctx.raw = true ∧ inputSize ≤ out.length
  · rw [State.shrinkEnd_of_incompressible hfits hraw.1 hraw.2]
    exact State.Inv.raise (State.memoriesWf_unspecify hmemories hcap (Nat.zero_le _)) (by simpa using hcontext) nofun
  · rw [State.shrinkEnd_of_success hfits fun h => Nat.lt_of_not_le fun hle => hraw ⟨h, hle⟩]
    have hwritten : (s.writeBytes .cout 0 out).memoriesWf := State.memoriesWf_writeBytes hmemories (by omega)
    have hfree := State.memoriesWf_unspecify hwritten (sp := .cout) hcap hfits
    exact (State.ended_finish _ _).inv (State.memoriesWf_congr hfree fun sp => by cases sp <;> rfl) (hcontext.cmdcount hvalid _)

theorem State.Inv.execShrink (h : Machine.execShrink s = .next t) : t.Inv := by
  simp only [Machine.execShrink] at h
  split_ifs at h with hnone hwin hraw hblock hcap
  · cases h
    exact State.Inv.raise hmemories hcontext nofun
  all_goals
    have hvalid : s.ctx.valid = true := by simpa using hnone
    have hcounted : ({ s.ctx with cmdcount := 0#32 } : Ctx).legal := hcontext.cmdcount hvalid _
    have hsame : State.memoriesWf { s with ctx := { s.ctx with cmdcount := 0#32 } } :=
      State.memoriesWf_congr hmemories fun sp => by cases sp <;> rfl
    cases h
  case neg =>
    have hphases : s.afterPhases.memoriesWf := State.memoriesWf_congr hmemories fun sp => by cases sp <;> rfl
    exact State.Inv.shrinkEnd (s := s.afterPhases) hphases hcounted hvalid (Nat.le_of_not_lt hcap)
  all_goals exact State.Inv.raise hsame hcounted nofun

/-- `EXPAND` with legal operands sets the decoder's registers in their ranges (R271). -/
theorem State.Inv.execExpand (hcleared : s.err = false ∧ s.result = 0#32 ∧ s.errcode = .ok)
    (h : Machine.execExpand s = .next t) : t.Inv := by
  obtain ⟨herr, hresult, hcode⟩ := hcleared
  unfold Machine.execExpand at h
  split_ifs at h with hversion hflags hin hcap hoff
  case neg =>
    cases h
    obtain ⟨-, -, hfmt⟩ := setWidth_version ((legalVersion_iff _).1 (by simpa using hversion))
    refine ⟨State.memoriesWf_congr hmemories fun sp => by cases sp <;> rfl, fun _ => ?_,
      fun _ => ⟨rfl, herr, hresult, hcode⟩, ?_, ?_, hcontext⟩
    · exact ⟨Nat.zero_le _, Nat.le_of_not_lt hin, le_rfl, Nat.le_of_not_lt hoff, Nat.le_of_not_lt hcap, Nat.zero_le _,
        Nat.zero_le _, hfmt, tokenFormat_ne_cmdw _⟩
    · exact iff_of_false (by simp [State.startDecode, herr]) (by simp [State.startDecode, hcode])
    · exact fun hne => absurd hcode hne
  all_goals
    cases h
    exact State.Inv.raise hmemories hcontext nofun

end

/-- A write of `CMD` on an idle engine (R22). -/
theorem State.Inv.commandWrite {s t : State} (hs : s.Inv) {w : Word} (h : Machine.commandWrite s w = .next t) : t.Inv := by
  have hidle : s.busy = false := by
    by_contra hbusy
    have hrefused : Machine.commandWrite s w = .refused .hostBusy := if_pos (by simpa using hbusy)
    exact nomatch hrefused.symm.trans h
  have hmemories : (s.beginCommand w).memoriesWf := State.memoriesWf_congr hs.memories fun _ => by simp
  have hcontext : (s.beginCommand w).ctx.legal := hs.context
  obtain hreserved | ⟨i, hdecode, hi⟩ := decode_cmdw_cases w
  · have hrun := commandWrite_of_rejected hidle (decode_cmdw_reserved hreserved)
    obtain rfl := Host.Outcome.next.inj (hrun.symm.trans h)
    exact State.Inv.raise hmemories hcontext nofun
  · have hrun := (commandWrite_of_instr hidle hdecode).symm.trans h
    obtain rfl | rfl | rfl | rfl | ⟨rfl, -⟩ := hi
    · exact State.Inv.execInit hmemories hrun
    · exact State.Inv.execDestroy hmemories hrun
    · exact State.Inv.execShrink hmemories hcontext hrun
    · exact State.Inv.execGetcount hmemories hcontext hrun
    · exact State.Inv.execExpand hmemories hcontext ⟨rfl, rfl, rfl⟩ hrun

/-- The state after the reset event (R410) meets the invariant as the reset state does. -/
theorem State.inv_resetEvent (s : State) : s.resetEvent.Inv where
  memories sp := by cases sp <;> rfl
  decoder := nofun
  cleared := nofun
  flag := iff_of_false nofun (fun h => h rfl)
  minusOne h := absurd rfl h
  context := ⟨nofun, fun _ => rfl⟩

section
variable {s t : State} (hs : s.Inv)
include hs

theorem State.Inv.hostReadReg {off : Nat} (h : s.hostReadReg off = .next t) : t.Inv := by
  unfold State.hostReadReg at h
  split_ifs at h
  all_goals
    cases h
    exact hs.of_host rfl

theorem State.Inv.hostWriteReg {off : Nat} {v : Word} (h : Machine.hostWriteReg s off v = .next t) : t.Inv := by
  unfold Machine.hostWriteReg at h
  split_ifs at h
  · cases h
    exact hs
  · exact hs.commandWrite h
  · cases h
    refine hs.of_host ?_
    unfold State.setReg
    split_ifs <;> rfl

theorem State.Inv.hostReadMem {sp : Space} {a : Nat} (h : s.hostReadMem sp a = .next t) : t.Inv := by
  unfold State.hostReadMem at h
  split_ifs at h
  cases h
  exact hs.of_host rfl

/-- The host writes one byte below the memory's size, while the engine is idle. -/
theorem State.Inv.hostWriteMem {sp : Space} {a : Nat} {b : Byte} (h : s.hostWriteMem sp a b = .next t) : t.Inv := by
  unfold State.hostWriteMem at h
  split_ifs at h with hbusy hcap
  cases h
  have hmemories : (s.writeBytes sp a [b]).memoriesWf :=
    State.memoriesWf_writeBytes hs.memories (Nat.succ_le_of_lt (Nat.lt_of_not_le hcap))
  exact ⟨hmemories, fun h => absurd (by simpa using h) hbusy, fun h => absurd (by simpa using h) hbusy,
    by simpa using hs.flag, by simpa using hs.minusOne, by simpa using hs.context⟩

/-- An access of the host. -/
theorem State.Inv.hostTurn {a : HostAct} (h : Machine.hostTurn s a = .next t) : t.Inv := by
  cases a with
  | await | yield => exact hs.engineTurn h
  | reset =>
    cases h
    exact s.inv_resetEvent
  | readReg off => exact hs.hostReadReg h
  | writeReg off v => exact hs.hostWriteReg h
  | readMem sp a => exact hs.hostReadMem h
  | writeMem sp a b => exact hs.hostWriteMem h

end

/-- Settles O10: by the move of the step, the engine's or the host's. -/
theorem stepKeepsInvariant : Obligations.StepKeepsInvariant := by
  intro s t hs h
  change nextMove s = .next t at h
  unfold nextMove at h
  split at h
  · exact hs.engineTurn h
  · rename_i a rest hhost
    split_ifs at h with hawait
    · exact hs.engineMove hawait.2 h
    · exact (hs.of_host (t := { s with host := rest }) rfl).hostTurn h

/-! ### The end of every `EXPAND` -/

/-- An idle engine with no host accesses stays as it is, however many steps pass. -/
theorem run_of_idle {s : State} (hidle : s.busy = false) (hhost : s.host = []) (n : Nat) :
    Host.Core.run core n s = .next s := by
  induction n with
  | zero => rfl
  | succ n ih => rw [run_succ_of_next (idleEngineStays s hidle hhost), ih]

/-- The nibbles of input that a running decoder has not read. -/
def Dec.nibblesLeft (d : Dec) : Nat := 2 * (d.dinsz - d.ip) + d.nibh.toNat

/-- A running decoder with `n` nibbles left ends within `n + 1` steps: each step reads at least one, or ends. -/
theorem run_ends {n : Nat} {s : State} (hs : s.Inv) (hbusy : s.busy = true) (hhost : s.host = [])
    (hleft : s.dec.nibblesLeft < n) : ∃ t, Host.Core.run core n s = .next t ∧ t.busy = false ∧ t.done = true := by
  induction n generalizing s with
  | zero => exact absurd hleft (Nat.not_lt_zero _)
  | succ n ih =>
    obtain ⟨-, -, -, -, -, -, -, -, hexpect⟩ := hs.decoder hbusy
    obtain ⟨t, hmove, hmoves⟩ := engineMove_movesOn hexpect
    have hstep : step s = .next t := (step_of_engineTurnNext ⟨hbusy, .inl hhost⟩).trans hmove
    have hinv := hmoves.inv hs hbusy
    rw [run_succ_of_next hstep]
    obtain ⟨u, hu, ht⟩ := hmoves
    have huhost : u.host = [] := by rw [hu.rest]; exact hhost
    obtain ⟨rfl, hafter⟩ | rfl | rfl := ht
    · have hubusy : t.busy = true := by rw [hu.rest]; exact hbusy
      obtain ⟨hin, -⟩ := hinv.decoder hubusy
      have hdinsz := hu.operands.dinsz
      refine ih hinv hubusy huhost ?_
      simp only [Dec.nibblesLeft, Dec.after] at *
      omega
    · exact ⟨_, run_of_idle rfl (by simpa [State.formatError] using huhost) n, rfl, rfl⟩
    · exact ⟨_, run_of_idle rfl (by simpa [State.expandDone] using huhost) n, rfl, rfl⟩

/-- Settles O15: at most one nibble is buffered besides the bytes left. -/
theorem expandTerminates : Obligations.ExpandTerminates := by
  intro s hs hbusy hhost
  refine run_ends hs hbusy hhost ?_
  have hbuffered := Bool.toNat_le s.dec.nibh
  unfold Dec.nibblesLeft
  omega

end Sys2Proof.Machine
end

section
/-! The backward dynamic program (R205 to R210, R220): the cost it gives a position is finite, it is the least over the
choices the position has, and so the total is at most the cost of any parse that makes one of these choices everywhere. -/

namespace Sys2Proof.Machine

/-! ### Costs with `inf` -/

@[simp] theorem Cost.plus_some (a k : Nat) : Cost.plus (some a) k = some (a + k) := rfl

@[simp] theorem Cost.plus_none (k : Nat) : Cost.plus none k = none := rfl

@[simp] theorem Cost.plus_zero (a : Cost) : Cost.plus a 0 = a := by cases a <;> rfl

@[simp] theorem Cost.least_none_left (a : Cost) : Cost.least none a = a := by cases a <;> rfl

@[simp] theorem Cost.least_none_right (a : Cost) : Cost.least a none = a := by cases a <;> rfl

@[simp] theorem Cost.least_some (a b : Nat) : Cost.least (some a) (some b) = some (min a b) := by
  by_cases h : a ≤ b
  · simp [Cost.least, Cost.le, h]
  · simp [Cost.least, Cost.le, h, Nat.le_of_not_le h]

theorem Cost.least_comm (a b : Cost) : Cost.least a b = Cost.least b a := by
  cases a <;> cases b <;> simp [Nat.min_comm]

/-! ### The cost of the best way on -/

/-- The least cost of going on from the first of the positions, the step before having been of kind `prev` (R205, R210). -/
def costFrom (prev : Option StepKind) : List PosCost → Cost
  | [] => some 0
  | c :: _ => Cost.least (Cost.plus c.l (switchCost prev .literal)) (Cost.plus c.m (switchCost prev .matched))

theorem nextAfterLit_eq (right : List PosCost) (k : Nat) :
    nextAfterLit right k = costFrom (some .literal) (right.drop k) := by
  unfold nextAfterLit
  cases h : right.drop k with
  | nil => rw [List.getElem?_eq_none (List.drop_eq_nil_iff.1 h)]; rfl
  | cons c cs => rw [← List.head?_drop, h]; simp [costFrom, switchCost]

theorem nextAfterMatch_eq (right : List PosCost) (k : Nat) :
    nextAfterMatch right k = costFrom (some .matched) (right.drop k) := by
  unfold nextAfterMatch
  cases h : right.drop k with
  | nil => rw [List.getElem?_eq_none (List.drop_eq_nil_iff.1 h)]; rfl
  | cons c cs => rw [← List.head?_drop, h]; simp [costFrom, switchCost, Cost.least_comm c.m]

theorem costTotal_eq (costs : List PosCost) : costTotal costs = costFrom none costs := by
  cases costs <;> simp [costTotal, costFrom, switchCost]

theorem costFrom_cons_of_lit {c : PosCost} {x : Nat} (h : c.l = some x) (prev : Option StepKind) (right : List PosCost) :
    ∃ y, costFrom prev (c :: right) = some y := by
  cases hm : c.m <;> simp [costFrom, h, hm]

theorem costFrom_cons_of_match {c : PosCost} {x : Nat} (h : c.m = some x) (prev : Option StepKind) (right : List PosCost) :
    ∃ y, costFrom prev (c :: right) = some y := by
  cases hl : c.l <;> simp [costFrom, h, hl]

/-- At every position one of the two costs is finite, and so is the cost of going on from it. -/
theorem costFrom_parseCosts_finite (v2 fav : Bool) (cands : List (List (Cand × Option Nat))) (prev : Option StepKind)
    (k : Nat) : ∃ x, costFrom prev ((parseCosts v2 fav cands).drop k) = some x := by
  induction cands generalizing prev k with
  | nil => exact ⟨0, by simp [parseCosts, costFrom]⟩
  | cons cs rest ih =>
    cases k with
    | succ k => exact ih prev k
    | zero =>
      have hlit : ∃ x, (posCostFull v2 (parseCosts v2 fav rest) cs).l = some x := by
        obtain ⟨x, hx⟩ := ih (some .literal) 0
        exact ⟨x + Config.litBits, by simp only [posCostFull, nextAfterLit_eq, hx, Cost.plus_some]⟩
      obtain ⟨x, hx⟩ := hlit
      cases cs with
      | nil => exact costFrom_cons_of_lit hx prev _
      | cons c cs =>
        simp only [parseCosts, posCost, List.drop_zero]
        split_ifs
        · obtain ⟨y, hy⟩ := ih (some .matched) (c.1.len - 1)
          exact costFrom_cons_of_match (by simp only [matchCost, nextAfterMatch_eq, hy, Cost.plus_some]; rfl) prev _
        · exact costFrom_cons_of_lit hx prev _

/-- The cost of going on from position `k` as a number. -/
def toGo (costs : List PosCost) (prev : Option StepKind) (k : Nat) : Nat := (costFrom prev (costs.drop k)).getD 0

theorem toGo_drop (costs : List PosCost) (prev : Option StepKind) (i k : Nat) :
    toGo (costs.drop i) prev k = toGo costs prev (i + k) := by
  rw [toGo, toGo, List.drop_drop]

theorem toGo_of_end {costs : List PosCost} {k : Nat} (h : costs.length ≤ k) (prev : Option StepKind) :
    toGo costs prev k = 0 := by
  rw [toGo, List.drop_eq_nil_of_le h]
  rfl

section
variable (v2 fav : Bool) (rest : List (List (Cand × Option Nat)))

theorem costFrom_eq_toGo (prev : Option StepKind) (k : Nat) :
    costFrom prev ((parseCosts v2 fav rest).drop k) = some (toGo (parseCosts v2 fav rest) prev k) := by
  obtain ⟨x, hx⟩ := costFrom_parseCosts_finite v2 fav rest prev k
  rw [toGo, hx]
  rfl

/-- The cost of a literal at the position before `rest` (R206). -/
def literalValue : Nat := 8 + toGo (parseCosts v2 fav rest) (some .literal) 0

/-- The cost of a candidate at the position before `rest` (R207). -/
def matchValue (c : Cand × Option Nat) : Nat :=
  headerCost v2 c.1 c.2 + toGo (parseCosts v2 fav rest) (some .matched) (c.1.len - 1)

theorem literalCost_eq :
    Cost.plus (nextAfterLit (parseCosts v2 fav rest) 0) Config.litBits = some (literalValue v2 fav rest) := by
  rw [nextAfterLit_eq, costFrom_eq_toGo, Cost.plus_some, literalValue, Nat.add_comm]
  rfl

theorem matchCost_eq (c : Cand × Option Nat) :
    matchCost v2 (parseCosts v2 fav rest) c = some (matchValue v2 fav rest c) := by
  rw [matchCost, nextAfterMatch_eq, costFrom_eq_toGo, Cost.plus_some, matchValue, Nat.add_comm]

end

/-! ### The best candidate -/

/-- Entry `b` of the list, `c`, has the least value, and no entry before it has the same (R207). -/
structure FirstBest {α : Type} (f : α → Nat) (cs : List α) (b : Nat) (c : α) : Prop where
  entry : cs[b]? = some c
  least : ∀ {j : Nat} {d : α}, cs[j]? = some d → f c ≤ f d
  first : ∀ {j : Nat} {d : α}, cs[j]? = some d → j < b → f c < f d

/-- Before a tail whose entries are not better, the head stays the best. -/
theorem FirstBest.of_head {α : Type} {f : α → Nat} {c : α} {cs : List α} (h : ∀ d ∈ cs, f c ≤ f d) :
    FirstBest f (c :: cs) 0 c where
  entry := rfl
  least {j d} hd := by
    obtain rfl | hmem := List.mem_cons.1 (List.mem_of_getElem? hd)
    · exact le_rfl
    · exact h d hmem
  first _ hj := absurd hj (Nat.not_lt_zero _)

/-- A better entry of the tail replaces the head. -/
theorem FirstBest.cons {α : Type} {f : α → Nat} {c d : α} {cs : List α} {b : Nat} (h : FirstBest f cs b d)
    (hlt : f d < f c) : FirstBest f (c :: cs) (b + 1) d where
  entry := h.entry
  least {j e} he := by
    cases j with
    | zero => cases he; exact hlt.le
    | succ j => exact h.least he
  first {j e} he hj := by
    cases j with
    | zero => cases he; exact hlt
    | succ j => exact h.first he (Nat.lt_of_succ_lt_succ hj)

section
variable {v2 : Bool} {right : List PosCost} {f : Cand × Option Nat → Nat} (hf : ∀ c, matchCost v2 right c = some (f c))
include hf

/-- The comparison in rising order (R207) keeps the best so far, or ends with the first best of the rest, which beats
it. -/
theorem bestMatch_some (j b i : Nat) (cs : List (Cand × Option Nat)) :
    bestMatch v2 right j (some b, some i) cs = (some b, some i) ∧ (∀ c ∈ cs, b ≤ f c) ∨
      ∃ k c, bestMatch v2 right j (some b, some i) cs = (some (f c), some (j + k)) ∧ f c < b ∧ FirstBest f cs k c := by
  induction cs generalizing j b i with
  | nil => exact .inl ⟨rfl, nofun⟩
  | cons c cs ih =>
    simp only [bestMatch, hf, Cost.lt, Cost.le]
    by_cases hbetter : f c < b
    · have hlt : decide (b ≤ f c) = false := decide_eq_false (Nat.not_le.2 hbetter)
      simp only [hlt, Bool.not_false, if_true]
      obtain ⟨heq, hrest⟩ | ⟨k, d, heq, hbest, hfirst⟩ := ih (j + 1) (f c) j
      · exact .inr ⟨0, c, heq, hbetter, .of_head hrest⟩
      · exact .inr ⟨k + 1, d, by rw [heq, Nat.add_right_comm, Nat.add_assoc], hbest.trans hbetter, hfirst.cons hbest⟩
    · have hle : decide (b ≤ f c) = true := decide_eq_true (Nat.le_of_not_lt hbetter)
      simp only [hle, Bool.not_true, Bool.false_eq_true, if_false]
      obtain ⟨heq, hrest⟩ | ⟨k, d, heq, hbest, hfirst⟩ := ih (j + 1) b i
      · exact .inl ⟨heq, List.forall_mem_cons.2 ⟨Nat.le_of_not_lt hbetter, hrest⟩⟩
      · exact .inr ⟨k + 1, d, by rw [heq, Nat.add_right_comm, Nat.add_assoc], hbest, hfirst.cons (by omega)⟩

/-- The best candidate of a position that has one. -/
theorem bestMatch_cons (c : Cand × Option Nat) (cs : List (Cand × Option Nat)) :
    ∃ b d, bestMatch v2 right 0 (none, none) (c :: cs) = (some (f d), some b) ∧ FirstBest f (c :: cs) b d := by
  have hfirst : bestMatch v2 right 0 (none, none) (c :: cs) = bestMatch v2 right 1 (some (f c), some 0) cs := by
    simp [bestMatch, hf, Cost.lt, Cost.le]
  rw [hfirst]
  obtain ⟨heq, hrest⟩ | ⟨k, d, heq, hbest, hd⟩ := bestMatch_some hf 1 (f c) 0 cs
  · exact ⟨0, c, heq, .of_head hrest⟩
  · exact ⟨k + 1, d, by rw [heq, Nat.add_comm], hd.cons hbest⟩

end

/-! ### The costs of one position -/

/-- The costs `PARSE` can give the position before `rest` (R206 to R208): it is left alone with its longest candidate, it
has no candidate, or it has both costs, that of a match being the best candidate's. -/
inductive PosCosts (v2 fav : Bool) (rest : List (List (Cand × Option Nat))) (cs : List (Cand × Option Nat)) :
    PosCost → Prop where
  | alone (c : Cand × Option Nat) (hc : cs[0]? = some c) (hfav : fav = false) (hlen : 512 ≤ c.1.len) :
    PosCosts v2 fav rest cs ⟨none, some (matchValue v2 fav rest c), some 0⟩
  | empty (hnil : cs = []) : PosCosts v2 fav rest cs ⟨some (literalValue v2 fav rest), none, none⟩
  | full (hshort : ∀ c, cs[0]? = some c → ¬ (fav = false ∧ 512 ≤ c.1.len)) (b : Nat) (c : Cand × Option Nat)
      (hbest : FirstBest (matchValue v2 fav rest) cs b c) :
    PosCosts v2 fav rest cs ⟨some (literalValue v2 fav rest), some (matchValue v2 fav rest c), some b⟩

theorem posCosts_posCost (v2 fav : Bool) (rest : List (List (Cand × Option Nat))) (cs : List (Cand × Option Nat)) :
    PosCosts v2 fav rest cs (posCost v2 fav (parseCosts v2 fav rest) cs) := by
  cases cs with
  | nil =>
    simp only [posCost, posCostFull, bestMatch, literalCost_eq]
    exact .empty rfl
  | cons c cs =>
    simp only [posCost]
    split_ifs with halone
    · rw [matchCost_eq]
      exact .alone c rfl halone.1 halone.2
    · obtain ⟨b, d, heq, hbest⟩ := bestMatch_cons (matchCost_eq v2 fav rest) c cs
      simp only [posCostFull, literalCost_eq, heq]
      exact .full (fun e he => by cases he; exact halone) b d hbest

theorem parseCosts_cons (v2 fav : Bool) (cs : List (Cand × Option Nat)) (rest : List (List (Cand × Option Nat))) :
    ∃ c, parseCosts v2 fav (cs :: rest) = c :: parseCosts v2 fav rest ∧ PosCosts v2 fav rest cs c :=
  ⟨_, rfl, posCosts_posCost v2 fav rest cs⟩

theorem toGo_cons {c : PosCost} {right : List PosCost} (prev : Option StepKind) :
    toGo (c :: right) prev 0 =
      (Cost.least (Cost.plus c.l (switchCost prev .literal)) (Cost.plus c.m (switchCost prev .matched))).getD 0 := rfl

theorem toGo_cons_succ (c : PosCost) (right : List PosCost) (prev : Option StepKind) (k : Nat) :
    toGo (c :: right) prev (k + 1) = toGo right prev k := rfl

/-! ### The parse against other parses -/

/-- A literal is a choice at every position that is not left alone. -/
theorem toGo_le_literal {v2 fav : Bool} {rest : List (List (Cand × Option Nat))} {cs : List (Cand × Option Nat)}
    (hfull : ∀ c, cs[0]? = some c → ¬ (fav = false ∧ 512 ≤ c.1.len)) (prev : Option StepKind) :
    toGo (parseCosts v2 fav (cs :: rest)) prev 0 ≤ switchCost prev .literal + literalValue v2 fav rest := by
  obtain ⟨pc, hpc, hcosts⟩ := parseCosts_cons v2 fav cs rest
  rw [hpc, toGo_cons]
  cases hcosts with
  | alone c hc hfav hlen => exact absurd ⟨hfav, hlen⟩ (hfull c hc)
  | empty => simp [Nat.add_comm]
  | full hshort b c hbest => simp; omega

/-- Candidate 0 is a choice at every position that has one, and so is every candidate of a position not left alone. -/
theorem toGo_le_match {v2 fav : Bool} {rest : List (List (Cand × Option Nat))} {cs : List (Cand × Option Nat)} {j : Nat}
    {c : Cand × Option Nat} (hc : cs[j]? = some c)
    (hfull : ∀ c, cs[0]? = some c → ¬ (fav = false ∧ 512 ≤ c.1.len) ∨ j = 0) (prev : Option StepKind) :
    toGo (parseCosts v2 fav (cs :: rest)) prev 0 ≤ switchCost prev .matched + matchValue v2 fav rest c := by
  obtain ⟨pc, hpc, hcosts⟩ := parseCosts_cons v2 fav cs rest
  rw [hpc, toGo_cons]
  cases hcosts with
  | alone d hd hfav hlen =>
    obtain hnot | rfl := hfull d hd
    · exact absurd ⟨hfav, hlen⟩ hnot
    · obtain rfl : d = c := Option.some.inj (hd.symm.trans hc)
      simp [Nat.add_comm]
  | empty hnil => simp [hnil] at hc
  | full hshort b d hbest =>
    have hle := hbest.least hc
    simp
    omega

/-- From every position the parse costs no more than the greedy parse (R220). -/
theorem toGo_le_greedyCost (v2 fav : Bool) (cands : List (List (Cand × Option Nat))) (prev : Option StepKind) (skip : Nat) :
    toGo (parseCosts v2 fav cands) prev skip ≤ greedyCost v2 prev skip cands := by
  induction cands generalizing prev skip with
  | nil => simp [parseCosts, toGo_of_end]
  | cons cs rest ih =>
    cases skip with
    | succ skip => exact ih prev skip
    | zero =>
      cases cs with
      | nil =>
        have hlit := toGo_le_literal (v2 := v2) (fav := fav) (rest := rest) (cs := []) nofun prev
        have hrest := ih (some .literal) 0
        have hbits : Config.litBits = 8 := rfl
        simp only [literalValue] at hlit
        rw [greedyCost]
        omega
      | cons c cs =>
        have hmatch := toGo_le_match (v2 := v2) (fav := fav) (rest := rest) (cs := c :: cs) (j := 0) rfl
          (fun _ _ => .inr rfl) prev
        have hrest := ih (some .matched) (c.1.len - 1)
        simp only [matchValue] at hmatch
        rw [greedyCost]
        omega

theorem costTotal_parseCosts (v2 fav : Bool) (cands : List (List (Cand × Option Nat))) :
    costTotal (parseCosts v2 fav cands) = some (toGo (parseCosts v2 fav cands) none 0) :=
  (costTotal_eq _).trans (costFrom_eq_toGo v2 fav cands none 0)

/-- Settles O49. -/
theorem parseNoWorseThanGreedy : Obligations.ParseNoWorseThanGreedy := fun v2 fav cands =>
  ⟨_, costTotal_parseCosts v2 fav cands, toGo_le_greedyCost v2 fav cands none 0⟩

/-- With the flag set no position is left alone, so every parse makes choices that the dynamic program compares. -/
theorem toGo_le_choiceCost (v2 : Bool) (cands : List (List (Cand × Option Nat))) (prev : Option StepKind) (skip : Nat)
    (ch : List (Option Nat)) {x : Nat} (hx : choiceCost v2 prev skip cands ch = some x) :
    toGo (parseCosts v2 true cands) prev skip ≤ x := by
  induction cands generalizing prev skip ch x with
  | nil => simp [parseCosts, toGo_of_end]
  | cons cs rest ih =>
    cases ch with
    | nil => cases skip <;> cases hx
    | cons choice ch =>
      cases skip with
      | succ skip => exact ih prev skip ch hx
      | zero =>
        cases choice with
        | none =>
          rw [choiceCost, Option.map_eq_some_iff] at hx
          obtain ⟨y, hy, rfl⟩ := hx
          have hlit := toGo_le_literal (v2 := v2) (fav := true) (rest := rest) (cs := cs) (fun _ _ h => nomatch h.1) prev
          have hrest := ih (some .literal) 0 ch hy
          have hbits : Config.litBits = 8 := rfl
          simp only [literalValue] at hlit
          omega
        | some j =>
          simp only [choiceCost] at hx
          cases hc : cs[j]? with
          | none => simp [hc] at hx
          | some c =>
            simp only [hc, Option.map_eq_some_iff] at hx
            obtain ⟨y, hy, rfl⟩ := hx
            have hmatch := toGo_le_match (v2 := v2) (fav := true) (rest := rest) hc
              (fun _ _ => .inl fun h => nomatch h.1) prev
            have hrest := ih (some .matched) (c.1.len - 1) ch hy
            simp only [matchValue] at hmatch
            omega

/-- With the flag set the cost of going on is that of a parse: at each position the cheaper of the two choices. -/
theorem exists_choiceCost_eq_toGo (v2 : Bool) (cands : List (List (Cand × Option Nat))) (prev : Option StepKind)
    (skip : Nat) : ∃ ch, choiceCost v2 prev skip cands ch = some (toGo (parseCosts v2 true cands) prev skip) := by
  induction cands generalizing prev skip with
  | nil => exact ⟨[], by simp [choiceCost, parseCosts, toGo_of_end]⟩
  | cons cs rest ih =>
    cases skip with
    | succ skip =>
      obtain ⟨ch, hch⟩ := ih prev skip
      exact ⟨none :: ch, hch⟩
    | zero =>
      have hbits : Config.litBits = 8 := rfl
      have hliteral : ∃ ch, choiceCost v2 prev 0 (cs :: rest) (none :: ch) =
          some (switchCost prev .literal + literalValue v2 true rest) := by
        obtain ⟨ch, hch⟩ := ih (some .literal) 0
        exact ⟨ch, by rw [choiceCost, hch, Option.map_some, literalValue, hbits, Nat.add_assoc]⟩
      have hmatched : ∀ j c, cs[j]? = some c → ∃ ch, choiceCost v2 prev 0 (cs :: rest) (some j :: ch) =
          some (switchCost prev .matched + matchValue v2 true rest c) := by
        intro j c hc
        obtain ⟨ch, hch⟩ := ih (some .matched) (c.1.len - 1)
        exact ⟨ch, by simp only [choiceCost, hc, hch, Option.map_some, matchValue, Nat.add_assoc]⟩
      obtain ⟨pc, hpc, hcosts⟩ := parseCosts_cons v2 true cs rest
      rw [hpc, toGo_cons]
      cases hcosts with
      | alone c hc hfav => cases hfav
      | empty =>
        obtain ⟨ch, hch⟩ := hliteral
        exact ⟨_, by rw [hch]; simp [Nat.add_comm]⟩
      | full hshort b c hbest =>
        simp only [Cost.plus_some, Cost.least_some, Option.getD_some]
        obtain hle | hle := Nat.le_total (literalValue v2 true rest + switchCost prev .literal)
          (matchValue v2 true rest c + switchCost prev .matched)
        · obtain ⟨ch, hch⟩ := hliteral
          exact ⟨_, by rw [hch, Nat.min_eq_left hle, Nat.add_comm]⟩
        · obtain ⟨ch, hch⟩ := hmatched b c hbest.entry
          exact ⟨_, by rw [hch, Nat.min_eq_right hle, Nat.add_comm]⟩

/-- Settles O50. -/
theorem parseIsOptimalWithFavor : Obligations.ParseIsOptimalWithFavor := fun v2 cands =>
  ⟨_, costTotal_parseCosts v2 true cands, fun ch _ hx => toGo_le_choiceCost v2 cands none 0 ch hx,
    exists_choiceCost_eq_toGo v2 cands none 0⟩

end Sys2Proof.Machine
end

section
/-! The Repeat-Offset Optimizer (R181 to R184): the favored table on arrival at each position, and what it annotates. -/

namespace Sys2Proof.Machine

/-! ### Slots -/

/-- The slot of an offset is the first place that holds it (R183). -/
theorem slotOf_eq_some_iff (o : Nat) (f : List Nat) (i : Nat) :
    slotOf o f = some i ↔ f[i]? = some o ∧ ∀ i', i' < i → f[i']? ≠ some o := by
  induction f generalizing i with
  | nil => simp [slotOf]
  | cons x f ih =>
    rw [slotOf]
    split_ifs with hx
    · cases i with
      | zero => simp [hx]
      | succ i =>
        refine iff_of_false nofun fun ⟨_, hbefore⟩ => hbefore 0 i.succ_pos ?_
        rw [hx]
        rfl
    · cases i with
      | zero => simp [hx]
      | succ i =>
        simp only [Option.map_eq_some_iff, Nat.add_right_cancel_iff, exists_eq_right, ih, List.getElem?_cons_succ]
        refine and_congr_right fun _ => ⟨fun h i' hi' => ?_, fun h i' hi' => h (i' + 1) (Nat.succ_lt_succ hi')⟩
        cases i' with
        | zero => simpa using hx
        | succ i' => exact h i' (Nat.lt_of_succ_lt_succ hi')

theorem slotOf_eq_none_iff (o : Nat) (f : List Nat) : slotOf o f = none ↔ o ∉ f := by
  induction f with
  | nil => simp [slotOf]
  | cons x f ih =>
    rw [slotOf]
    split_ifs with hx
    · simp [hx]
    · simp [ih, Ne.symm hx]

/-- The table around the slot of an offset, which is not in the table before it. -/
theorem split_of_slotOf {o k : Nat} {f : List Nat} (h : slotOf o f = some k) :
    f = f.take k ++ o :: f.drop (k + 1) ∧ o ∉ f.take k := by
  obtain ⟨hk, hbefore⟩ := (slotOf_eq_some_iff o f k).1 h
  obtain ⟨hlt, hget⟩ := List.getElem?_eq_some_iff.1 hk
  refine ⟨?_, fun hmem => ?_⟩
  · rw [← hget, List.cons_getElem_drop_succ, List.take_append_drop]
  · obtain ⟨i, hi⟩ := List.getElem?_of_mem hmem
    obtain ⟨hlen, -⟩ := List.getElem?_eq_some_iff.1 hi
    rw [List.length_take] at hlen
    rw [List.getElem?_take_of_lt (by omega)] at hi
    exact hbefore i (by omega) hi

/-! ### Favoring an offset -/

/-- The offsets that may not stand twice in the table are those that are not empty slots. -/
def Distinct (f : List Nat) : Prop := (f.filter (fun x => decide (x ≠ 0))).Nodup

/-- Favoring an offset of slot `k` takes it out there (R182). -/
theorem favor_of_slotOf_some {o k : Nat} {f : List Nat} (hlen : f.length = 4) (ho : o ≠ 0) (hf : Distinct f)
    (h : slotOf o f = some k) : favor o f = o :: (f.take k ++ f.drop (k + 1)) := by
  obtain ⟨hsplit, hbefore⟩ := split_of_slotOf h
  have hafter : o ∉ f.drop (k + 1) := fun hmem => by
    rw [Distinct, hsplit, List.filter_append, List.filter_cons_of_pos (by simpa using ho)] at hf
    exact (List.nodup_cons.1 (List.nodup_append.1 hf).2.1).1 (List.mem_filter.2 ⟨hmem, by simpa using ho⟩)
  have hothers : ∀ l : List Nat, o ∉ l → l.filter (fun x => decide (x ≠ o)) = l := fun l hl =>
    List.filter_eq_self.2 fun x hx => decide_eq_true fun heq => hl (heq ▸ hx)
  have hfilter : f.filter (fun x => decide (x ≠ o)) = f.take k ++ f.drop (k + 1) := by
    conv_lhs => rw [hsplit]
    rw [List.filter_append, List.filter_cons_of_neg (by simp), hothers _ hbefore, hothers _ hafter]
  have hthree : (f.take k ++ f.drop (k + 1)).length = 3 := by
    have hk : k < f.length := (List.getElem?_eq_some_iff.1 ((slotOf_eq_some_iff o f k).1 h).1).1
    rw [List.length_append, List.length_take, List.length_drop]
    omega
  rw [favor, hfilter, Config.repSlots, List.take_succ_cons, List.take_append_of_le_length hthree.ge,
    List.take_of_length_le hthree.le]

/-- Favoring an offset that is not in the table lets the last entry fall out (R182). -/
theorem favor_of_slotOf_none {o : Nat} {f : List Nat} (hlen : f.length = 4) (h : slotOf o f = none) :
    favor o f = o :: f.take 3 := by
  have hfilter : f.filter (fun x => decide (x ≠ o)) = f :=
    List.filter_eq_self.2 fun x hx => decide_eq_true fun heq => (slotOf_eq_none_iff o f).1 h (heq ▸ hx)
  rw [favor, hfilter, Config.repSlots, List.take_succ_cons, List.take_append_of_le_length (by omega)]

theorem length_favor (o : Nat) (f : List Nat) : (favor o f).length = 4 := by
  rw [favor, List.length_take, List.length_cons, List.length_append]
  exact Nat.min_eq_left (by simp [Config.repSlots])

theorem distinct_favor (o : Nat) {f : List Nat} (hf : Distinct f) : Distinct (favor o f) := by
  refine List.Nodup.sublist ((List.take_sublist _ _).filter _) ?_
  have hrest : ((f.filter (fun x => decide (x ≠ o)) ++ [0, 0, 0, 0]).filter (fun x => decide (x ≠ 0))) =
      (f.filter (fun x => decide (x ≠ 0))).filter (fun x => decide (x ≠ o)) := by
    rw [List.filter_append, List.filter_comm]
    simp
  by_cases ho : o = 0
  · rw [List.filter_cons_of_neg (by simpa using ho), hrest]
    exact hf.filter _
  · rw [List.filter_cons_of_pos (by simpa using ho), hrest, List.nodup_cons]
    exact ⟨fun hmem => by simpa using (List.mem_filter.1 hmem).2, hf.filter _⟩

/-! ### The pass -/

/-- `FAV` and `GCUR` on arrival at the position `i` after the start of the pass (R184). -/
def passState : Nat → List Nat → Nat → List (List Cand) → Nat → List Nat × Nat
  | _, fav, gcur, _, 0 => (fav, gcur)
  | _, fav, gcur, [], _ + 1 => (fav, gcur)
  | p, fav, gcur, cs :: rest, i + 1 =>
    passState (p + 1) (greedyMove p cs fav gcur).1 (greedyMove p cs fav gcur).2 rest i

theorem passState_length (p : Nat) (fav : List Nat) (gcur : Nat) (cands : List (List Cand)) :
    passState p fav gcur cands cands.length =
      ((repPassFrom p fav gcur cands).fav, (repPassFrom p fav gcur cands).gcur) := by
  induction cands generalizing p fav gcur with
  | nil => rfl
  | cons cs cands ih => exact ih _ _ _

section
variable {cands : List (List Cand)} {i : Nat} {cs : List Cand}

theorem passState_succ (p : Nat) (fav : List Nat) (gcur : Nat) (h : cands[i]? = some cs) :
    passState p fav gcur cands (i + 1) =
      greedyMove (p + i) cs (passState p fav gcur cands i).1 (passState p fav gcur cands i).2 := by
  induction cands generalizing p fav gcur i with
  | nil => cases h
  | cons ds cands ih =>
    cases i with
    | zero =>
      cases h
      simp [passState]
    | succ i =>
      have hnext := ih (p + 1) (greedyMove p ds fav gcur).1 (greedyMove p ds fav gcur).2 h
      rwa [Nat.add_right_comm, Nat.add_assoc] at hnext

/-- The annotations of a position come from the table on arrival there. -/
theorem repPassFrom_ro_getElem? (p : Nat) (fav : List Nat) (gcur : Nat) (h : cands[i]? = some cs) :
    (repPassFrom p fav gcur cands).ro[i]? = some (cs.map (annotate (passState p fav gcur cands i).1)) := by
  induction cands generalizing p fav gcur i with
  | nil => cases h
  | cons ds cands ih =>
    cases i with
    | zero =>
      cases h
      rfl
    | succ i => exact ih (p + 1) _ _ h

end

theorem greedyMove_cases (p : Nat) (cs : List Cand) (fav : List Nat) (gcur : Nat) :
    (greedyMove p cs fav gcur).1 = fav ∨ ∃ c : Cand, (greedyMove p cs fav gcur).1 = favor c.off fav := by
  unfold greedyMove
  split_ifs
  · cases cs with
    | nil => exact .inl rfl
    | cons c cs => exact .inr ⟨c, rfl⟩
  · exact .inl rfl

/-- The table keeps four entries, and no offset twice, all the way. -/
theorem passState_distinct (p : Nat) {fav : List Nat} (gcur : Nat) (cands : List (List Cand)) (i : Nat)
    (hlen : fav.length = 4) (hfav : Distinct fav) :
    (passState p fav gcur cands i).1.length = 4 ∧ Distinct (passState p fav gcur cands i).1 := by
  induction cands generalizing p fav gcur i with
  | nil => cases i <;> exact ⟨hlen, hfav⟩
  | cons cs cands ih =>
    cases i with
    | zero => exact ⟨hlen, hfav⟩
    | succ i =>
      have hmoved : (greedyMove p cs fav gcur).1.length = 4 ∧ Distinct (greedyMove p cs fav gcur).1 := by
        obtain hsame | ⟨c, hfavored⟩ := greedyMove_cases p cs fav gcur
        · rw [hsame]
          exact ⟨hlen, hfav⟩
        · rw [hfavored]
          exact ⟨length_favor _ _, distinct_favor _ hfav⟩
      exact ih _ _ _ hmoved.1 hmoved.2

theorem repPassFrom_ro_lengths (p : Nat) (fav : List Nat) (gcur : Nat) (cands : List (List Cand)) :
    (repPassFrom p fav gcur cands).ro.map List.length = cands.map List.length := by
  induction cands generalizing p fav gcur with
  | nil => rfl
  | cons cs cands ih => simp [repPassFrom, ih]

/-- The move of the model is the move of the rules (R182, R184). -/
theorem greedyMoves_greedyMove (p : Nat) (cs : List Cand) (fav : List Nat) (gcur : Nat) :
    greedyMoves p cs fav gcur (greedyMove p cs fav gcur).1 (greedyMove p cs fav gcur).2 := by
  unfold greedyMoves greedyMove
  split_ifs
  · cases cs <;> exact ⟨rfl, rfl⟩
  · exact ⟨rfl, rfl⟩

/-- The annotations of the model are those of the rules, the table having a hot slot (R183). -/
theorem annotated_map_annotate {fav : List Nat} (hlen : fav.length = 4) (cs : List Cand) :
    annotated fav cs (cs.map (annotate fav)) := by
  refine ⟨List.length_map _, fun j c a hc ha => ?_⟩
  rw [List.getElem?_map, hc, Option.map_some, Option.some.injEq] at ha
  subst ha
  refine ⟨fun i => slotOf_eq_some_iff c.off fav i, ?_, rfl, rfl⟩
  cases fav with
  | nil => cases hlen
  | cons o fav => rfl

/-! ### The arrays of a `SHRINK` -/

/-- The pass of `ASSIGN_REP_SLOTS` over the candidates of a block (R184). -/
def blockPass (c : Ctx) (w : List Byte) (hist : Nat) : RepPass :=
  repPassFrom hist [0, 0, 0, 0] hist (findMatches c.minmatch hist w)

theorem compress_cand (c : Ctx) (k : Work) (w : List Byte) (hist : Nat) :
    (compress c k w hist).1.cand = findMatches c.minmatch hist w := by
  unfold compress
  cases c.fmt == 2#2 <;> rfl

section
variable {c : Ctx} (hfmt : c.fmt = 2#2) (k : Work) (w : List Byte) (hist : Nat)
include hfmt

theorem compress_v2_ro : (compress c k w hist).1.ro = (blockPass c w hist).ro := by
  simp only [compress, hfmt]
  rfl

theorem compress_v2_fav : (compress c k w hist).1.fav = (blockPass c w hist).fav := by
  simp only [compress, hfmt]
  rfl

theorem compress_v2_gcur : (compress c k w hist).1.gcur = (blockPass c w hist).gcur := by
  simp only [compress, hfmt]
  rfl

end

theorem distinct_empty : Distinct [0, 0, 0, 0] := by
  unfold Distinct
  decide

/-- Settles O48: the state of the pass on arrival at each position is the witness. -/
theorem favoredTableIsDistinct : Obligations.FavoredTableIsDistinct := by
  refine ⟨fun o f hlen ho hf => ⟨fun k hk => favor_of_slotOf_some hlen ho hf hk, favor_of_slotOf_none hlen⟩,
    fun p g cands => ?_, fun c k w hist r hfmt hr => ?_⟩
  · have hend := passState_length p [0, 0, 0, 0] g cands
    obtain ⟨hlen, hdistinct⟩ := passState_distinct p g cands cands.length rfl distinct_empty
    rw [hend] at hlen hdistinct
    exact ⟨hlen, hdistinct, repPassFrom_ro_lengths _ _ _ _⟩
  · have hcand : r.cand = findMatches c.minmatch hist w := hr ▸ compress_cand c k w hist
    have hro : r.ro = (blockPass c w hist).ro := hr ▸ compress_v2_ro hfmt k w hist
    have hend := passState_length hist [0, 0, 0, 0] hist (findMatches c.minmatch hist w)
    refine ⟨fun i => (passState hist [0, 0, 0, 0] hist r.cand i).1, fun i => (passState hist [0, 0, 0, 0] hist r.cand i).2,
      rfl, rfl, ?_, ?_, ?_, fun i cs as hcs has => ⟨?_, ?_⟩⟩
    · simp only [hcand, hend]
      exact hr ▸ compress_v2_fav hfmt k w hist
    · simp only [hcand, hend]
      exact hr ▸ compress_v2_gcur hfmt k w hist
    · rw [hro, hcand]
      exact length_repPassFrom_ro _ _ _ _
    · have hann := repPassFrom_ro_getElem? hist [0, 0, 0, 0] hist hcs
      rw [hro, blockPass, ← hcand, hann, Option.some.injEq] at has
      subst has
      exact annotated_map_annotate (passState_distinct _ _ _ _ rfl distinct_empty).1 cs
    · simp only [passState_succ hist [0, 0, 0, 0] hist hcs]
      exact greedyMoves_greedyMove _ _ _ _

end Sys2Proof.Machine
end

section
/-! The arrays and the walk of a `SHRINK` (R205 to R211, R216), position by position: the arrays are those of the backward
dynamic program, each step of the walk is the cheaper of the two, and the Tokens stand for these steps. -/

namespace Sys2Proof.Machine

/-! ### The arrays of a `SHRINK` -/

/-- The candidates of a block with their slots, as `PARSE` prices them. -/
def blockCands (c : Ctx) (w : List Byte) (hist : Nat) : List (List (Cand × Option Nat)) :=
  slottedCands (c.fmt == 2#2) (findMatches c.minmatch hist w) (blockPass c w hist).ro

theorem blockCosts_eq (c : Ctx) (w : List Byte) (hist : Nat) :
    blockCosts c w hist = parseCosts (c.fmt == 2#2) c.favor (blockCands c w hist) := rfl

/-- The three arrays hold the dynamic program's costs. -/
theorem compress_arrays (c : Ctx) (k : Work) (w : List Byte) (hist : Nat) :
    (compress c k w hist).1.costL = (blockCosts c w hist).map PosCost.l ∧
      (compress c k w hist).1.costM = (blockCosts c w hist).map PosCost.m ∧
      (compress c k w hist).1.bestJ = (blockCosts c w hist).map PosCost.j := by
  unfold compress blockCosts
  cases c.fmt == 2#2 <;> exact ⟨rfl, rfl, rfl⟩

theorem compress_costsAt (c : Ctx) (k : Work) (w : List Byte) (hist p : Nat) :
    (compress c k w hist).1.costsAt p = (blockCosts c w hist)[p]? := by
  obtain ⟨hl, hm, hj⟩ := compress_arrays c k w hist
  rw [Work.costsAt, hl, hm, hj, List.getElem?_map, List.getElem?_map, List.getElem?_map]
  cases (blockCosts c w hist)[p]? <;> rfl

/-- The arrays of `r` are those of the dynamic program over the candidates `slotted`: those of `r`, each priced by the
header cost of its place, and each of them ending in the block. -/
structure Work.TablesOf (r : Work) (v2 fav : Bool) (slotted : List (List (Cand × Option Nat))) : Prop where
  costs : ∀ p, r.costsAt p = (parseCosts v2 fav slotted)[p]?
  length : slotted.length = r.cand.length
  cands : ∀ {p : Nat} {cs : List (Cand × Option Nat)}, slotted[p]? = some cs → r.cand[p]? = some (cs.map Prod.fst)
  header : ∀ {p : Nat} {cs : List (Cand × Option Nat)} {j : Nat} {c : Cand × Option Nat}, slotted[p]? = some cs →
    cs[j]? = some c → r.headerAt v2 p j c.1 = headerCost v2 c.1 c.2
  fits : ∀ {p : Nat} {cs : List (Cand × Option Nat)} {c : Cand × Option Nat}, slotted[p]? = some cs → c ∈ cs →
    1 ≤ c.1.len ∧ p + c.1.len ≤ slotted.length

/-- The slotted candidates of a position in V2: each with the slot of its annotation. -/
theorem slottedCands_v2_getElem? {cand : List (List Cand)} {ro : List (List RepAnn)} {p : Nat}
    {cs' : List (Cand × Option Nat)} (h : (slottedCands true cand ro)[p]? = some cs') :
    ∃ cs as, cand[p]? = some cs ∧ ro[p]? = some as ∧ cs' = List.zipWith (fun c a => (c, RepAnn.slot a)) cs as := by
  obtain ⟨cs, as, hcs, has, heq⟩ := List.getElem?_zipWith_eq_some.1 h
  exact ⟨cs, as, hcs, has, heq.symm⟩

theorem slottedCands_v1_getElem? {cand : List (List Cand)} {ro : List (List RepAnn)} {p : Nat}
    {cs' : List (Cand × Option Nat)} (h : (slottedCands false cand ro)[p]? = some cs') :
    ∃ cs, cand[p]? = some cs ∧ cs' = cs.map (fun c => (c, none)) := by
  have hmap : (cand.map (fun cs => cs.map (fun c => (c, (none : Option Nat)))))[p]? = some cs' := h
  rw [List.getElem?_map, Option.map_eq_some_iff] at hmap
  obtain ⟨cs, hcs, heq⟩ := hmap
  exact ⟨cs, hcs, heq.symm⟩

/-- Every position of the block has as many annotations as candidates. -/
theorem blockPass_lengths {c : Ctx} {w : List Byte} {hist p : Nat} {cs : List Cand} {as : List RepAnn}
    (hcs : (findMatches c.minmatch hist w)[p]? = some cs) (has : (blockPass c w hist).ro[p]? = some as) :
    as.length = cs.length := by
  have hlengths := congrArg (fun l => l[p]?) (repPassFrom_ro_lengths hist [0, 0, 0, 0] hist (findMatches c.minmatch hist w))
  simp only [List.getElem?_map, hcs, Option.map_some] at hlengths
  rw [blockPass] at has
  simpa [has] using hlengths

/-- Slots do not change the candidates, and the header cost at a place takes the slot of that place (R187, R204). -/
theorem blockCands_getElem? (c : Ctx) (k : Work) {w : List Byte} {hist p : Nat} {cs' : List (Cand × Option Nat)}
    (h : (blockCands c w hist)[p]? = some cs') :
    (findMatches c.minmatch hist w)[p]? = some (cs'.map Prod.fst) ∧
      ∀ j d, cs'[j]? = some d →
        (compress c k w hist).1.headerAt (c.fmt == 2#2) p j d.1 = headerCost (c.fmt == 2#2) d.1 d.2 := by
  cases hv2 : c.fmt == 2#2 with
  | true =>
    rw [blockCands, hv2] at h
    obtain ⟨cs, as, hcs, has, rfl⟩ := slottedCands_v2_getElem? h
    have hlen := blockPass_lengths hcs has
    have hfst : (List.zipWith (fun c a => (c, RepAnn.slot a)) cs as).map Prod.fst = cs :=
      List.ext_getElem (by simp [hlen]) (by simp)
    refine ⟨by rw [hfst, hcs], fun j d hd => ?_⟩
    obtain ⟨e, a, -, ha, rfl⟩ := List.getElem?_zipWith_eq_some.1 hd
    have hann : (compress c k w hist).1.annAt p j = some a := by
      rw [Work.annAt, compress_v2_ro (beq_iff_eq.1 hv2), has]
      exact ha
    simp [Work.headerAt, hann]
  | false =>
    rw [blockCands, hv2] at h
    obtain ⟨cs, hcs, rfl⟩ := slottedCands_v1_getElem? h
    refine ⟨by rw [hcs, List.map_map]; simp [Function.comp_def], fun j d hd => ?_⟩
    rw [List.getElem?_map, Option.map_eq_some_iff] at hd
    obtain ⟨e, -, rfl⟩ := hd
    simp [Work.headerAt]

theorem length_blockCands (c : Ctx) (w : List Byte) (hist : Nat) : (blockCands c w hist).length = w.length - hist := by
  rw [blockCands, blockPass, length_slottedCands _ (length_repPassFrom_ro _ _ _ _), length_findMatches]

theorem tablesOf_compress (c : Ctx) (k : Work) (w : List Byte) (hist : Nat) :
    (compress c k w hist).1.TablesOf (c.fmt == 2#2) c.favor (blockCands c w hist) where
  costs p := compress_costsAt c k w hist p
  length := by rw [length_blockCands, compress_cand, length_findMatches]
  cands hcs := by rw [compress_cand, (blockCands_getElem? c k hcs).1]
  header hcs hc := (blockCands_getElem? c k hcs).2 _ _ hc
  fits {p cs d} hcs hd := by
    have hmatch := findMatches_matchAt (blockCands_getElem? c k hcs).1 (List.mem_map_of_mem hd)
    have hfits := hmatch.fits
    rw [length_blockCands]
    exact ⟨hmatch.len_pos, by omega⟩

/-! ### The transition to the next position -/

theorem leastOf_iff (x : Nat) (a : Cost) (ka : Nat) (b : Cost) (kb : Nat) :
    leastOf x a ka b kb ↔ Cost.least (Cost.plus a ka) (Cost.plus b kb) = some x := by
  cases a with
  | none => cases b <;> simp [leastOf]; omega
  | some a =>
    cases b with
    | none => simp [leastOf]; omega
    | some b => simp [leastOf]; omega

theorem parseCosts_drop (v2 fav : Bool) (cands : List (List (Cand × Option Nat))) (p : Nat) :
    (parseCosts v2 fav cands).drop p = parseCosts v2 fav (cands.drop p) := by
  induction cands generalizing p with
  | nil => simp [parseCosts]
  | cons cs rest ih =>
    cases p with
    | zero => rfl
    | succ p => exact ih p

/-- Inside the block the transition cost is the least of the two costs, the penalty on the other kind. -/
theorem isNext_of_lt {r : Work} {kind : StepKind} {q x : Nat} {c : PosCost} (hlt : q < r.cand.length)
    (hc : r.costsAt q = some c) :
    r.isNext kind q x ↔
      Cost.least (Cost.plus c.l (switchCost (some kind) .literal)) (Cost.plus c.m (switchCost (some kind) .matched)) =
        some x := by
  cases kind with
  | literal => simp [Work.isNext, Nat.not_le.2 hlt, hlt, hc, leastOf_iff, switchCost, Config.modeSwitchPenalty]
  | matched =>
    simp [Work.isNext, Nat.not_le.2 hlt, hlt, hc, leastOf_iff, switchCost, Config.modeSwitchPenalty, Cost.least_comm c.m]

/-- The cost of a literal at a position. -/
theorem literalValue_drop (v2 fav : Bool) (slotted : List (List (Cand × Option Nat))) (p : Nat) :
    literalValue v2 fav (slotted.drop (p + 1)) = 8 + toGo (parseCosts v2 fav slotted) (some .literal) (p + 1) := by
  rw [literalValue, ← parseCosts_drop, toGo_drop, Nat.add_zero]

section
variable {r : Work} {v2 fav : Bool} {slotted : List (List (Cand × Option Nat))} (h : r.TablesOf v2 fav slotted)
include h

/-- A transition cost (R205) is the cost of going on. -/
theorem Work.TablesOf.isNext_iff (kind : StepKind) (q x : Nat) :
    r.isNext kind q x ↔ x = toGo (parseCosts v2 fav slotted) (some kind) q := by
  have hlength : (parseCosts v2 fav slotted).length = r.cand.length := (length_parseCosts v2 fav slotted).trans h.length
  obtain hlt | hend := Nat.lt_or_ge q r.cand.length
  · have hq : q < (parseCosts v2 fav slotted).length := hlength.symm ▸ hlt
    have hcosts : r.costsAt q = some (parseCosts v2 fav slotted)[q] := by rw [h.costs, List.getElem?_eq_getElem hq]
    have hfrom := costFrom_eq_toGo v2 fav slotted (some kind) q
    rw [List.drop_eq_getElem_cons hq, costFrom] at hfrom
    rw [isNext_of_lt hlt hcosts, hfrom, Option.some_inj, eq_comm]
  · rw [toGo_of_end (hlength.symm ▸ hend), Work.isNext]
    exact ⟨fun hx => hx.elim And.right fun hx => absurd hx.1 (Nat.not_lt.2 hend), fun hx => .inl ⟨hend, hx⟩⟩

/-- The costs at a position of the block are those the dynamic program gives its candidates. -/
theorem Work.TablesOf.position {p : Nat} {cs : List Cand} (hcs : r.cand[p]? = some cs) :
    ∃ cs' c, slotted[p]? = some cs' ∧ cs = cs'.map Prod.fst ∧ r.costsAt p = some c ∧
      PosCosts v2 fav (slotted.drop (p + 1)) cs' c := by
  have hp : p < slotted.length := h.length ▸ (List.getElem?_eq_some_iff.1 hcs).1
  have hslotted : slotted[p]? = some slotted[p] := List.getElem?_eq_getElem hp
  have hcosts := congrArg List.head? (parseCosts_drop v2 fav slotted p)
  obtain ⟨c, hc, hpos⟩ := parseCosts_cons v2 fav slotted[p] (slotted.drop (p + 1))
  rw [List.head?_drop, List.drop_eq_getElem_cons hp, hc] at hcosts
  exact ⟨slotted[p], c, hslotted, Option.some.inj (hcs.symm.trans (h.cands hslotted)), (h.costs p).trans hcosts, hpos⟩

/-- The cost of a candidate at a position: its header, and going on behind the match. -/
theorem Work.TablesOf.matchValue_eq {p j : Nat} {cs : List (Cand × Option Nat)} {c : Cand × Option Nat}
    (hcs : slotted[p]? = some cs) (hc : cs[j]? = some c) :
    matchValue v2 fav (slotted.drop (p + 1)) c =
      r.headerAt v2 p j c.1 + toGo (parseCosts v2 fav slotted) (some .matched) (p + c.1.len) := by
  obtain ⟨hpos, -⟩ := h.fits hcs (List.mem_of_getElem? hc)
  rw [matchValue, h.header hcs hc, ← parseCosts_drop, toGo_drop, show p + 1 + (c.1.len - 1) = p + c.1.len by omega]

end

/-- Being left alone is decided by the first candidate (R208). -/
theorem leftAlone_iff (fav : Bool) (cs : List (Cand × Option Nat)) :
    leftAlone fav (cs.map Prod.fst) ↔ ∃ c, cs[0]? = some c ∧ fav = false ∧ 512 ≤ c.1.len := by
  cases cs with
  | nil => simp [leftAlone]
  | cons c cs => simp [leftAlone]

/-- Settles O51: the three cases of a position's costs. -/
theorem costArraysFollowTheRules : Obligations.CostArraysFollowTheRules := by
  intro c k w hist r v2 hr hv2
  have hfmt : v2 = (c.fmt == 2#2) := by
    rw [Bool.eq_iff_iff, hv2, beq_iff_eq]
  have h : r.TablesOf v2 c.favor (blockCands c w hist) := hr ▸ hfmt ▸ tablesOf_compress c k w hist
  have hlength : (blockCosts c w hist).length = r.cand.length := by
    rw [← h.length, blockCosts_eq, length_parseCosts]
  obtain ⟨hl, hm, hj⟩ := compress_arrays c k w hist
  rw [← hr] at hl hm hj
  refine ⟨by rw [hl, List.length_map, hlength], by rw [hm, List.length_map, hlength],
    by rw [hj, List.length_map, hlength], fun p cs hcs => ?_⟩
  obtain ⟨cs', a, hcs', rfl, ha, hcosts⟩ := h.position hcs
  refine ⟨a, ha, fun halone => ?_, fun halone => ⟨?_, fun hnil => ?_, fun hne => ?_⟩⟩
  · obtain ⟨d, hd, hfav, hlen⟩ := (leftAlone_iff _ _).1 halone
    cases hcosts with
    | alone e he =>
      obtain rfl : e = d := Option.some.inj (he.symm.trans hd)
      refine ⟨rfl, rfl, e.1, _, by rw [List.getElem?_map, he]; rfl, (h.isNext_iff _ _ _).2 rfl, ?_⟩
      rw [h.matchValue_eq hcs' he]
    | empty hnil => simp [hnil] at hd
    | full hshort => exact absurd ⟨hfav, hlen⟩ (hshort d hd)
  · refine ⟨_, (h.isNext_iff _ _ _).2 rfl, ?_⟩
    cases hcosts with
    | alone e he hfav hlen => exact absurd ((leftAlone_iff _ _).2 ⟨e, he, hfav, hlen⟩) halone
    | empty => rw [literalValue_drop]
    | full => rw [literalValue_drop]
  · obtain rfl : cs' = [] := List.map_eq_nil_iff.1 hnil
    cases hcosts with
    | alone e he => cases he
    | empty => exact ⟨rfl, rfl⟩
    | full _ b e hbest => cases hbest.entry
  · cases hcosts with
    | alone e he hfav hlen => exact absurd ((leftAlone_iff _ _).2 ⟨e, he, hfav, hlen⟩) halone
    | empty hnil => exact absurd (List.map_eq_nil_iff.2 hnil) hne
    | full _ b e hbest =>
      refine ⟨b, e.1, _, rfl, by rw [List.getElem?_map, hbest.entry]; rfl, (h.isNext_iff _ _ _).2 rfl, ?_, ?_⟩
      · rw [h.matchValue_eq hcs' hbest.entry]
      · intro j m y hmj hy
        rw [List.getElem?_map, Option.map_eq_some_iff] at hmj
        obtain ⟨d, hd, rfl⟩ := hmj
        obtain rfl := (h.isNext_iff _ _ _).1 hy
        rw [← h.matchValue_eq hcs' hbest.entry, ← h.matchValue_eq hcs' hd]
        exact ⟨hbest.least hd, fun hlt => hbest.first hd hlt⟩

end Sys2Proof.Machine
end

section
/-! The walk of a `SHRINK` (R210, R211, R216): its steps are the cheaper choices of the arrays, they add up to the total,
and the Tokens stand for these steps. -/

namespace Sys2Proof.Machine

/-! ### The choice at a position -/

theorem costAtMost_iff (a : Cost) (ka : Nat) (b : Cost) (kb : Nat) :
    costAtMost a ka b kb ↔ Cost.le (Cost.plus a ka) (Cost.plus b kb) = true := by
  cases a <;> cases b <;> simp [costAtMost, Cost.le]

/-- The test of the walk compares the two ways on, a literal winning at equality (R211). -/
theorem literalChosen_iff (prev : Option StepKind) (c : PosCost) :
    literalChosen prev c ↔
      Cost.le (Cost.plus c.l (switchCost prev .literal)) (Cost.plus c.m (switchCost prev .matched)) = true := by
  match prev with
  | none => exact costAtMost_iff ..
  | some .literal => exact costAtMost_iff ..
  | some .matched => exact costAtMost_iff ..

theorem takesLit_iff (prev : Option StepKind) (c : PosCost) : takesLit prev c = true ↔ literalChosen prev c := by
  match prev with
  | none => simp [takesLit, literalChosen, costAtMost_iff]
  | some .literal => simp [takesLit, literalChosen, costAtMost_iff, Config.modeSwitchPenalty]
  | some .matched => simp [takesLit, literalChosen, costAtMost_iff, Config.modeSwitchPenalty]

section
variable {v2 fav : Bool} {rest : List (List (Cand × Option Nat))} {cs : List (Cand × Option Nat)} {c : PosCost}
  (hcosts : PosCosts v2 fav rest cs c) {prev : Option StepKind} (right : List PosCost)
include hcosts

/-- A chosen literal is the cheaper way on. -/
theorem PosCosts.toGo_of_literal (hlit : literalChosen prev c) :
    toGo (c :: right) prev 0 = switchCost prev .literal + literalValue v2 fav rest := by
  rw [literalChosen_iff] at hlit
  cases hcosts with
  | alone => cases hlit
  | empty => simp [toGo_cons, Nat.add_comm]
  | full =>
    rw [toGo_cons, Cost.least, if_pos hlit, Cost.plus_some, Option.getD_some, Nat.add_comm]

/-- Where no literal is chosen there is a best candidate, and it is the cheaper way on. -/
theorem PosCosts.toGo_of_match (hlit : ¬ literalChosen prev c) :
    ∃ b d, c.j = some b ∧ cs[b]? = some d ∧
      toGo (c :: right) prev 0 = switchCost prev .matched + matchValue v2 fav rest d := by
  rw [literalChosen_iff] at hlit
  cases hcosts with
  | alone d hd => exact ⟨0, d, rfl, hd, by simp [toGo_cons, Nat.add_comm]⟩
  | empty => exact absurd rfl hlit
  | full _ b d hbest =>
    exact ⟨b, d, rfl, hbest.entry, by
      rw [toGo_cons, Cost.least, if_neg hlit, Cost.plus_some, Option.getD_some, Nat.add_comm]⟩

end

/-! ### The walk -/

theorem walk_of_literal {prev : Option StepKind} {c : PosCost} (h : literalChosen prev c) (p : Nat) (cs : List Cand)
    (rest : List (PosCost × List Cand)) :
    walk prev 0 p ((c, cs) :: rest) = .lit p :: walk (some .literal) 0 (p + 1) rest := by
  simp [walk, (takesLit_iff prev c).2 h]

theorem walk_of_match {prev : Option StepKind} {c : PosCost} {cs : List Cand} {b : Nat} {m : Cand}
    (h : ¬ literalChosen prev c) (hb : c.j = some b) (hm : cs[b]? = some m) (p : Nat) (rest : List (PosCost × List Cand)) :
    walk prev 0 p ((c, cs) :: rest) = .mtch p m.off m.len :: walk (some .matched) (m.len - 1) (p + 1) rest := by
  have hlit : takesLit prev c = false := Bool.eq_false_iff.2 fun heq => h ((takesLit_iff prev c).1 heq)
  simp [walk, hlit, chosen, hb, hm]

/-- The walk from position `k` on, `skip` positions of it inside the match before, makes the choices of R211, ends at the
end of the block, and costs what going on costs. -/
theorem Work.TablesOf.walks_walk {r : Work} {v2 fav : Bool} {slotted : List (List (Cand × Option Nat))}
    (h : r.TablesOf v2 fav slotted) (s : Nat) (cells : List (PosCost × List Cand)) (prev : Option StepKind)
    {k skip : Nat} (hcells : cells = ((parseCosts v2 fav slotted).zip r.cand).drop k)
    (hend : k + cells.length = r.cand.length) (hskip : skip ≤ cells.length) :
    r.walks v2 s prev (k + skip) (walk prev skip (s + k) cells) (toGo (parseCosts v2 fav slotted) prev (k + skip)) := by
  have hlength : (parseCosts v2 fav slotted).length = r.cand.length := (length_parseCosts v2 fav slotted).trans h.length
  induction cells generalizing prev k skip with
  | nil =>
    obtain rfl : skip = 0 := Nat.le_zero.1 hskip
    have hk : k = r.cand.length := hend
    have htogo := toGo_of_end (hlength.trans hk.symm).le prev
    exact ⟨hk, htogo⟩
  | cons cell rest ih =>
    obtain ⟨c, cs⟩ := cell
    rw [List.length_cons] at hend hskip
    have htail : rest = ((parseCosts v2 fav slotted).zip r.cand).drop (k + 1) := by
      rw [← List.tail_drop, ← hcells, List.tail_cons]
    have hrest : ∀ (prev : Option StepKind) {skip : Nat}, skip ≤ rest.length → r.walks v2 s prev (k + 1 + skip)
        (walk prev skip (s + k + 1) rest) (toGo (parseCosts v2 fav slotted) prev (k + 1 + skip)) := fun prev skip hskip =>
      ih prev htail (by omega) hskip
    cases skip with
    | succ skip =>
      rw [show k + (skip + 1) = k + 1 + skip by omega, walk]
      exact hrest prev (Nat.le_of_succ_le_succ hskip)
    | zero =>
      have hcell : ((parseCosts v2 fav slotted).zip r.cand)[k]? = some (c, cs) := by
        rw [← List.head?_drop, ← hcells, List.head?_cons]
      obtain ⟨hc, hcs⟩ : (parseCosts v2 fav slotted)[k]? = some c ∧ r.cand[k]? = some cs :=
        List.getElem?_zip_eq_some.1 hcell
      obtain ⟨cs', c', hcs', hmap, hc', hcosts⟩ := h.position hcs
      obtain rfl : c' = c := Option.some.inj (hc'.symm.trans ((h.costs k).trans hc))
      have hdrop : (parseCosts v2 fav slotted).drop k = c' :: (parseCosts v2 fav slotted).drop (k + 1) := by
        obtain ⟨hk, hget⟩ := List.getElem?_eq_some_iff.1 hc
        rw [List.drop_eq_getElem_cons hk, hget]
      have hhere : toGo (parseCosts v2 fav slotted) prev k = toGo (c' :: (parseCosts v2 fav slotted).drop (k + 1)) prev 0 := by
        rw [← hdrop, toGo_drop, Nat.add_zero]
      by_cases hlit : literalChosen prev c'
      · rw [walk_of_literal hlit, Nat.add_zero, hhere, hcosts.toGo_of_literal _ hlit, literalValue_drop, ← Nat.add_assoc]
        exact ⟨rfl, c', _, hc', hlit, hrest (some .literal) (Nat.zero_le _), rfl⟩
      · obtain ⟨b, d, hb, hd, htogo⟩ := hcosts.toGo_of_match ((parseCosts v2 fav slotted).drop (k + 1)) hlit
        have hm : cs[b]? = some d.1 := by rw [hmap, List.getElem?_map, hd, Option.map_some]
        obtain ⟨hpos, hfits⟩ := h.fits hcs' (List.mem_of_getElem? hd)
        have hwalks := hrest (some .matched) (skip := d.1.len - 1) (by rw [h.length] at hfits; omega)
        rw [show k + 1 + (d.1.len - 1) = k + d.1.len by omega] at hwalks
        rw [walk_of_match hlit hb hm, Nat.add_zero, hhere, htogo, h.matchValue_eq hcs' hd, ← Nat.add_assoc]
        exact ⟨rfl, c', b, d.1, _, hc', hlit, hb, by rw [Work.candAt, hcs, Option.bind_some, hm], rfl, rfl, hwalks, rfl⟩

/-! ### The Tokens and the steps -/

theorem tokenSteps_markRepeats (p e : Nat) (ts : List Token) : tokenSteps p (markRepeats e ts) = tokenSteps p ts := by
  induction ts generalizing p e with
  | nil => rfl
  | cons t ts ih => cases t <;> simp [markRepeats, tokenSteps, ih]

/-- A literal Token of one more byte stands for one more step. -/
theorem tokenSteps_lit_succ (p n : Nat) (ts : List Token) :
    tokenSteps p (.lit p (n + 1) :: ts) = .lit p :: tokenSteps (p + 1) (.lit (p + 1) n :: ts) := by
  rw [tokenSteps, tokenSteps, List.range_succ_eq_map, List.map_cons, List.map_map, List.cons_append, Nat.add_zero,
    Nat.add_right_comm, Nat.add_assoc]
  simp [Function.comp_def, Nat.add_comm, Nat.add_left_comm]

/-- Merging the literals of steps that tile the window loses no step (R216). -/
theorem Tiles.tokenSteps_mergeSteps {w : List Byte} {p : Nat} {steps : List ParseStep} (h : Tiles w p steps) :
    tokenSteps p (mergeSteps steps) = steps := by
  induction h with
  | done => rfl
  | @lit p steps rest ih =>
    obtain ⟨a, n, ts, hts, hmerge⟩ | hmerge := mergeSteps_lit_cons p steps
    · obtain rfl := rest.start_of_lit hts
      rw [hmerge, tokenSteps_lit_succ, ← hts, ih]
    · rw [hmerge, tokenSteps_lit_succ]
      simp [tokenSteps, ih]
  | mtch here rest ih => rw [mergeSteps, tokenSteps, ih]

theorem tokenSteps_compress (c : Ctx) (k : Work) (w : List Byte) (hist : Nat) :
    tokenSteps hist (compress c k w hist).1.tok = blockSteps c w hist := by
  have hsteps : tokenSteps hist (mergeSteps (blockSteps c w hist)) = blockSteps c w hist := by
    obtain hhist | hhist := Nat.le_total hist w.length
    · exact (tiles_blockSteps c hhist).tokenSteps_mergeSteps
    · rw [blockSteps_of_no_block c hhist]
      rfl
  by_cases hfmt : c.fmt = 2#2
  · rw [compress_tok_v2 hfmt, tokenSteps_markRepeats, hsteps]
  · rw [compress_tok_v1 hfmt, hsteps]

/-! ### Literal Tokens -/

/-- No literal Token is empty, and none follows another (R216). -/
inductive Merged : List Token → Prop where
  | nil : Merged []
  | mtch {off len : Nat} {rep : Bool} {ts : List Token} (rest : Merged ts) : Merged (.mtch off len rep :: ts)
  | lit {a n : Nat} {ts : List Token} (pos : 1 ≤ n) (next : ∀ b m us, ts ≠ .lit b m :: us) (rest : Merged ts) :
    Merged (.lit a n :: ts)

theorem merged_mergeSteps (steps : List ParseStep) : Merged (mergeSteps steps) := by
  induction steps with
  | nil => exact .nil
  | cons step steps ih =>
    cases step with
    | mtch p off len => exact .mtch ih
    | lit p =>
      cases hts : mergeSteps steps with
      | nil => simpa [mergeSteps, hts] using Merged.lit (ts := []) le_rfl nofun .nil
      | cons t ts =>
        rw [hts] at ih
        cases t with
        | lit a n =>
          cases ih with
          | lit pos next rest => simpa [mergeSteps, hts] using Merged.lit (Nat.le_add_left 1 n) next rest
        | mtch off len rep => simpa [mergeSteps, hts] using Merged.lit (ts := .mtch off len rep :: ts) le_rfl nofun ih

theorem Merged.markRepeats {ts : List Token} (h : Merged ts) (e : Nat) : Merged (markRepeats e ts) := by
  induction h generalizing e with
  | nil => exact .nil
  | mtch rest ih => exact .mtch (ih _)
  | @lit a n ts pos next rest ih =>
    refine .lit pos (fun b m us heq => ?_) (ih e)
    cases ts with
    | nil => cases heq
    | cons t ts =>
      cases t with
      | lit => exact next _ _ _ rfl
      | mtch => cases heq

theorem Merged.pos {ts : List Token} (h : Merged ts) {a n : Nat} (hmem : Token.lit a n ∈ ts) : 1 ≤ n := by
  induction h with
  | nil => cases hmem
  | mtch rest ih => exact ih ((List.mem_cons.1 hmem).resolve_left nofun)
  | lit pos next rest ih =>
    obtain heq | hmem := List.mem_cons.1 hmem
    · cases heq
      exact pos
    · exact ih hmem

theorem Merged.not_adjacent {ts : List Token} (h : Merged ts) (pre : List Token) (a n b m : Nat) (post : List Token) :
    ts ≠ pre ++ .lit a n :: .lit b m :: post := by
  induction h generalizing pre with
  | nil => simp
  | mtch rest ih =>
    rintro heq
    cases pre with
    | nil => cases heq
    | cons t pre => exact ih pre (List.cons.inj heq).2
  | lit pos next rest ih =>
    rintro heq
    cases pre with
    | nil => exact next _ _ _ (List.cons.inj heq).2
    | cons t pre => exact ih pre (List.cons.inj heq).2

theorem merged_compress (c : Ctx) (k : Work) (w : List Byte) (hist : Nat) : Merged (compress c k w hist).1.tok := by
  by_cases hfmt : c.fmt = 2#2
  · rw [compress_tok_v2 hfmt]
    exact (merged_mergeSteps _).markRepeats 0
  · rw [compress_tok_v1 hfmt]
    exact merged_mergeSteps _

/-- Settles O52: the steps of the Tokens are those of the walk, whose cost is that of going on from the block's start. -/
theorem walkHasTheTotalCost : Obligations.WalkHasTheTotalCost := by
  intro c k w hist r v2 hr hv2
  have hfmt : v2 = (c.fmt == 2#2) := by rw [Bool.eq_iff_iff, hv2, beq_iff_eq]
  have h : r.TablesOf v2 c.favor (blockCands c w hist) := hr ▸ hfmt ▸ tablesOf_compress c k w hist
  have hmerged : Merged r.tok := hr ▸ merged_compress c k w hist
  have hsteps : tokenSteps hist r.tok =
      walk none 0 (hist + 0) ((parseCosts v2 c.favor (blockCands c w hist)).zip r.cand) := by
    rw [hr, tokenSteps_compress, compress_cand, hfmt]
    rfl
  have hlength : ((parseCosts v2 c.favor (blockCands c w hist)).zip r.cand).length = r.cand.length := by
    rw [List.length_zip, length_parseCosts, h.length, Nat.min_self]
  refine ⟨⟨_, hsteps ▸ h.walks_walk hist _ none List.drop_zero.symm (by rw [Nat.zero_add, hlength]) (Nat.zero_le _), ?_⟩,
    fun a n => hmerged.pos, hmerged.not_adjacent⟩
  cases hcand : r.cand with
  | nil => exact .inl ⟨rfl, toGo_of_end (by rw [length_parseCosts, h.length, hcand]; exact le_rfl) none⟩
  | cons cs rest =>
    obtain ⟨cs', a, -, -, ha, -⟩ := h.position (p := 0) (by rw [hcand]; rfl)
    have hfrom := costFrom_eq_toGo v2 c.favor (blockCands c w hist) none 0
    have hcosts := (h.costs 0).symm.trans ha
    refine .inr ⟨a, ha, (leastOf_iff ..).2 ?_⟩
    rw [← hfrom]
    cases hparse : parseCosts v2 c.favor (blockCands c w hist) with
    | nil => rw [hparse] at hcosts; cases hcosts
    | cons pc right =>
      rw [hparse] at hcosts
      cases hcosts
      rfl

end Sys2Proof.Machine
end

section
/-! The commands of a block (R96, R232): the Tokens of a `SHRINK`, grouped into wire commands, cover the block from the
history to the end of the window, with lengths and offsets in the ranges of the fields. -/

namespace Sys2Proof.Machine

/-! ### The steps in range -/

/-- The walk takes matches from the candidates of its positions only. -/
theorem exists_cand_of_mem_walk {prev : Option StepKind} {skip p : Nat} {cells : List (PosCost × List Cand)}
    {q off len : Nat} (h : ParseStep.mtch q off len ∈ walk prev skip p cells) :
    ∃ c ∈ cells, ∃ m ∈ c.2, m.off = off ∧ m.len = len := by
  induction cells generalizing prev skip p with
  | nil => cases h
  | cons c cells ih =>
    have hlater : ∀ {prev skip}, ParseStep.mtch q off len ∈ walk prev skip (p + 1) cells →
        ∃ d ∈ c :: cells, ∃ m ∈ d.2, m.off = off ∧ m.len = len := fun hmem =>
      (ih hmem).imp fun _ ⟨hd, hm⟩ => ⟨List.mem_cons_of_mem _ hd, hm⟩
    cases skip with
    | succ skip => exact hlater h
    | zero =>
      obtain hlit | ⟨m, hm, hmtch⟩ := walk_cons prev p c cells
      · rw [hlit] at h
        exact hlater ((List.mem_cons.1 h).resolve_left nofun)
      · rw [hmtch] at h
        obtain heq | hmem := List.mem_cons.1 h
        · cases heq
          exact ⟨c, List.mem_cons_self, m, hm, rfl, rfl⟩
        · exact hlater hmem

/-- A match's length and offset lie in the ranges of the wire fields, its length not below the minimum match size. -/
structure MatchInRange (mm off len : Nat) : Prop where
  min_le : mm ≤ len
  len_cap : len ≤ 32767
  off_cap : off ≤ 65535

theorem blockSteps_inRange {c : Ctx} {w : List Byte} {hist q off len : Nat}
    (h : ParseStep.mtch q off len ∈ blockSteps c w hist) : MatchInRange c.minmatch off len := by
  obtain ⟨cell, hcell, m, hm, rfl, rfl⟩ := exists_cand_of_mem_walk h
  obtain ⟨k, hk⟩ := List.mem_iff_getElem?.1 hcell
  obtain ⟨-, hcand⟩ := List.getElem?_zip_eq_some.1 hk
  obtain ⟨-, -, hspec⟩ := candidatesMatchTheWindow c.minmatch hist w k cell.2 hcand
  obtain ⟨hmin, -, -, hcap, -, -, hoff, -⟩ := hspec m hm
  exact ⟨hmin, hcap, hoff⟩

/-! ### Repeat flags -/

/-- A set flag means that the offset is the one before, `e` at first (R217). -/
inductive Flagged : Nat → List Token → Prop where
  | nil {e : Nat} : Flagged e []
  | lit {e a n : Nat} {ts : List Token} (rest : Flagged e ts) : Flagged e (.lit a n :: ts)
  | mtch {e off len : Nat} {rep : Bool} {ts : List Token} (flag : rep = true → off = e) (rest : Flagged off ts) :
    Flagged e (.mtch off len rep :: ts)

theorem flagged_markRepeats (e : Nat) (ts : List Token) : Flagged e (markRepeats e ts) := by
  induction ts generalizing e with
  | nil => exact .nil
  | cons t ts ih =>
    cases t with
    | lit a n => exact .lit (ih e)
    | mtch off len rep => exact .mtch of_decide_eq_true (ih off)

theorem flagged_of_unflagged (e : Nat) {ts : List Token} (h : ∀ off len rep, Token.mtch off len rep ∈ ts → rep = false) :
    Flagged e ts := by
  induction ts generalizing e with
  | nil => exact .nil
  | cons t ts ih =>
    have hrest : ∀ e, Flagged e ts := fun e => ih e fun off len rep hmem => h off len rep (List.mem_cons_of_mem _ hmem)
    cases t with
    | lit a n => exact .lit (hrest e)
    | mtch off len rep =>
      obtain rfl := h off len rep List.mem_cons_self
      exact .mtch nofun (hrest off)

theorem flagged_compress (c : Ctx) (k : Work) (w : List Byte) (hist : Nat) :
    Flagged 0 (compress c k w hist).1.tok := by
  by_cases hfmt : c.fmt = 2#2
  · rw [compress_tok_v2 hfmt]
    exact flagged_markRepeats _ _
  · rw [compress_tok_v1 hfmt]
    exact flagged_of_unflagged 0 fun _ _ _ => rep_eq_false_of_mem_mergeSteps

/-! ### The commands -/

/-- A command's literals are the window's from `p` on. -/
structure Command.LitAt (w : List Byte) (p : Nat) (c : Command) : Prop where
  start : 1 ≤ c.nl → c.ls = p
  fits : p + c.nl ≤ w.length

/-- A command's match repeats bytes of the window at `p`, its fields are in range, and a set flag means that its offset is
`e`, the one before. -/
structure MatchPart.FitsAt (w : List Byte) (mm e p : Nat) (m : MatchPart) : Prop extends
  MatchAt w p m.off m.len, MatchInRange mm m.off m.len where
  flag : m.rep = true → m.off = e

/-- The commands cover the window from `p` to its end, `e` being the offset of the match before; only the last one is
without a match (R232). -/
inductive Covers (w : List Byte) (mm : Nat) : Nat → Nat → List Command → Prop where
  | last {e p : Nat} {c : Command} (final : c.match? = none) (lits : c.LitAt w p) (endsAt : p + c.nl = w.length) :
    Covers w mm e p [c]
  | cons {e p : Nat} {c : Command} {m : MatchPart} {cs : List Command} (hmatch : c.match? = some m) (lits : c.LitAt w p)
    (here : m.FitsAt w mm e (p + c.nl)) (rest : Covers w mm m.off (p + c.nl + m.len) cs) : Covers w mm e p (c :: cs)

theorem Tiles.eq_length {w : List Byte} {p : Nat} (h : Tiles w p []) : p = w.length := by cases h; rfl

theorem Tiles.matchAt {w : List Byte} {p off len : Nat} {steps : List ParseStep} (h : Tiles w p (.mtch p off len :: steps)) :
    MatchAt w p off len ∧ Tiles w (p + len) steps := by
  cases h with
  | mtch here rest => exact ⟨here, rest⟩

theorem Tiles.tail_of_lits {w : List Byte} {p a n : Nat} {steps : List ParseStep}
    (h : Tiles w p ((List.range n).map (fun i => ParseStep.lit (a + i)) ++ steps)) :
    (1 ≤ n → a = p) ∧ Tiles w (p + n) steps := by
  induction n generalizing p a with
  | zero => exact ⟨nofun, by simpa using h⟩
  | succ n ih =>
    rw [List.range_succ_eq_map, List.map_cons, List.map_map, List.cons_append] at h
    cases h with
    | lit rest =>
      have htail := ih (p := a + 1) (a := a + 1) (by simpa [Function.comp_def, Nat.add_assoc, Nat.add_comm 1] using rest)
      exact ⟨fun _ => rfl, by simpa [Nat.add_assoc, Nat.add_comm 1] using htail.2⟩

/-- Tokens that tile the window, in range and with flags that hold, give commands that cover it; `n` literals at `a` are
still to be written, and no literal Token follows them. -/
theorem covers_groupTokens {w : List Byte} {mm e p a n : Nat} {ts : List Token} (hmerged : Merged ts)
    (hnext : 1 ≤ n → ∀ b m us, ts ≠ .lit b m :: us) (hstart : 1 ≤ n → a = p) (htiles : Tiles w (p + n) (tokenSteps (p + n) ts))
    (hrange : ∀ q off len, ParseStep.mtch q off len ∈ tokenSteps (p + n) ts → MatchInRange mm off len)
    (hflags : Flagged e ts) : Covers w mm e p (groupTokens a n ts) := by
  induction hmerged generalizing e p a n with
  | nil =>
    have hend : p + n = w.length := htiles.eq_length
    exact .last rfl ⟨hstart, hend.le⟩ hend
  | @mtch off len rep ts rest ih =>
    obtain ⟨here, tail⟩ := htiles.matchAt
    cases hflags with
    | mtch flag hflags =>
      have hfits := here.fits
      refine .cons rfl ⟨hstart, by simp only; omega⟩ { here, hrange _ _ _ List.mem_cons_self with flag } ?_
      exact ih nofun nofun tail (fun q off' len' hmem => hrange q off' len' (List.mem_cons_of_mem _ hmem)) hflags
  | @lit b m ts pos next rest ih =>
    obtain rfl : n = 0 := by
      by_contra hn
      exact hnext (by omega) b m ts rfl
    cases hflags with
    | lit hflags =>
      obtain ⟨hb, htail⟩ := htiles.tail_of_lits
      exact ih (fun _ => next) hb htail (fun q off' len' hmem => hrange q off' len' (List.mem_append_right _ hmem)) hflags

/-- The commands of a block cover it. -/
theorem covers_compress (c : Ctx) (k : Work) {w : List Byte} {hist : Nat} (hhist : hist ≤ w.length) :
    Covers w c.minmatch 0 hist (groupTokens 0 0 (compress c k w hist).1.tok) :=
  covers_groupTokens (merged_compress c k w hist) nofun nofun
    (by rw [Nat.add_zero, tokenSteps_compress]; exact tiles_blockSteps c hhist)
    (fun q off len hmem => blockSteps_inRange (by rwa [Nat.add_zero, tokenSteps_compress] at hmem)) (flagged_compress c k w hist)

end Sys2Proof.Machine
end

section
/-! How long a block gets (R250): a command with a match is at most twice as long as the bytes it stands for, and the final
command takes 8 bytes more. -/

namespace Sys2Proof.Machine

/-! ### The fields of V1 -/

@[simp] theorem length_lohi (n : Nat) : (lohi n).length = 2 := rfl

theorem length_v1LitExt_le (nl : Nat) : (v1LitExt nl).length ≤ 3 ∧ (nl < 7 → (v1LitExt nl).length = 0) := by
  unfold v1LitExt
  split_ifs <;> simp <;> omega

theorem length_v1MatchExt_le (len : Nat) : (v1MatchExt len).length ≤ 3 ∧ (len < 18 → (v1MatchExt len).length = 0) := by
  unfold v1MatchExt
  split_ifs <;> simp <;> omega

theorem length_v1Offset_le (off : Nat) : (v1Offset off).length ≤ 2 := by
  unfold v1Offset
  split_ifs <;> simp

theorem length_literalsOf_le (w : List Byte) (c : Command) : (literalsOf w c).length ≤ c.nl := List.length_take_le _ _

theorem length_v1Command_match {c : Command} {m : MatchPart} (hm : c.match? = some m) (hlen : 3 ≤ m.len) (raw : Bool)
    (w : List Byte) : (v1Command raw w c).length ≤ 2 * (c.nl + m.len) := by
  have hlit := length_v1LitExt_le c.nl
  have hmatch := length_v1MatchExt_le m.len
  have hoff := length_v1Offset_le m.off
  have hbytes := length_literalsOf_le w c
  simp only [v1Command, hm, List.length_cons, List.length_append]
  omega

theorem length_v1Command_final {c : Command} (hm : c.match? = none) (raw : Bool) (w : List Byte) :
    (v1Command raw w c).length ≤ 2 * c.nl + 8 := by
  have hlit := length_v1LitExt_le c.nl
  have hbytes := length_literalsOf_le w c
  cases raw <;> simp [v1Command, hm] <;> omega

/-! ### The fields of V2 -/

@[simp] theorem Enc.length_putBytes (e : Enc) (bs : List Byte) : (e.putBytes bs).out.length = e.out.length + bs.length :=
  List.length_append

theorem Enc.length_putNibble_le (e : Enc) (v : Nat) : (e.putNibble v).out.length ≤ e.out.length + 1 := by
  unfold Enc.putNibble
  split <;> simp

theorem Enc.length_putV2LitExt_le (e : Enc) (nl : Nat) :
    (e.putV2LitExt nl).out.length ≤ e.out.length + 4 ∧ (nl < 18 → (e.putV2LitExt nl).out.length ≤ e.out.length + 1) ∧
      (nl < 3 → (e.putV2LitExt nl).out.length = e.out.length) := by
  have hnibble := e.length_putNibble_le (min (nl - 3) 15)
  unfold Enc.putV2LitExt
  split_ifs <;> simp <;> omega

theorem Enc.length_putV2Offset_le (e : Enc) (m : MatchPart) : (e.putV2Offset m).out.length ≤ e.out.length + 2 := by
  have hnibble := e.length_putNibble_le ((65536 - m.off) / 2 % 16)
  have hnibble' := e.length_putNibble_le ((65536 - m.off + 512) / 512 % 16)
  unfold Enc.putV2Offset
  split_ifs <;> simp only [Enc.length_putBytes, List.length_cons, List.length_nil] <;> omega

theorem Enc.length_putV2MatchExt_le (e : Enc) (len : Nat) :
    (e.putV2MatchExt len).out.length ≤ e.out.length + 4 ∧ (len < 9 → (e.putV2MatchExt len).out.length = e.out.length) := by
  have hnibble := e.length_putNibble_le (min (len - 9) 15)
  unfold Enc.putV2MatchExt
  split_ifs <;> simp <;> omega

theorem Enc.length_putV2Command_match {c : Command} {m : MatchPart} (hm : c.match? = some m) (hlen : 2 ≤ m.len)
    (raw : Bool) (w : List Byte) (e : Enc) :
    (e.putV2Command raw w c).out.length ≤ e.out.length + 2 * (c.nl + m.len) := by
  have hbytes := length_literalsOf_le w c
  have hlit := (e.putBytes [byteOf (32 * v2Mode m + 8 * min c.nl 3 + min (m.len - 2) 7)]).length_putV2LitExt_le c.nl
  have hoff := (((e.putBytes [byteOf (32 * v2Mode m + 8 * min c.nl 3 + min (m.len - 2) 7)]).putV2LitExt c.nl).putBytes
    (literalsOf w c)).length_putV2Offset_le m
  have hmatch := ((((e.putBytes [byteOf (32 * v2Mode m + 8 * min c.nl 3 + min (m.len - 2) 7)]).putV2LitExt c.nl).putBytes
    (literalsOf w c)).putV2Offset m).length_putV2MatchExt_le m.len
  simp only [Enc.length_putBytes, List.length_singleton] at hlit hoff
  simp only [Enc.putV2Command, hm]
  omega

theorem Enc.length_putV2Command_final {c : Command} (hm : c.match? = none) (raw : Bool) (w : List Byte) (e : Enc) :
    (e.putV2Command raw w c).out.length ≤ e.out.length + (2 * c.nl + 8) := by
  have hbytes := length_literalsOf_le w c
  have hlit := (e.putBytes [byteOf (8 * min c.nl 3 + (if raw then 32 * 7 + 7 else 0))]).length_putV2LitExt_le c.nl
  have hescape := (((e.putBytes [byteOf (8 * min c.nl 3 + (if raw then 32 * 7 + 7 else 0))]).putV2LitExt c.nl).putBytes
    (literalsOf w c)).length_putNibble_le 15
  simp only [Enc.length_putBytes, List.length_singleton] at hlit hescape
  simp only [Enc.putV2Command, hm]
  cases raw <;> simp at hlit hescape ⊢ <;> omega

/-! ### The whole block -/

theorem Enc.length_putCommand_match {v2 : Bool} {c : Command} {m : MatchPart} (hm : c.match? = some m)
    (hlen : 2 ≤ m.len) (hv1 : v2 = false → 3 ≤ m.len) (raw : Bool) (w : List Byte) (e : Enc) :
    (e.putCommand v2 raw w c).out.length ≤ e.out.length + 2 * (c.nl + m.len) := by
  cases v2 with
  | true => exact Enc.length_putV2Command_match hm hlen raw w e
  | false => exact (e.length_putBytes _).le.trans (Nat.add_le_add_left (length_v1Command_match hm (hv1 rfl) raw w) _)

theorem Enc.length_putCommand_final {c : Command} (hm : c.match? = none) (v2 raw : Bool) (w : List Byte) (e : Enc) :
    (e.putCommand v2 raw w c).out.length ≤ e.out.length + (2 * c.nl + 8) := by
  cases v2 with
  | true => exact Enc.length_putV2Command_final hm raw w e
  | false => exact (e.length_putBytes _).le.trans (Nat.add_le_add_left (length_v1Command_final hm raw w) _)

/-- Commands that cover the window from `p` on take at most twice as many bytes, and 8 more. -/
theorem Covers.length_le {w : List Byte} {mm off p : Nat} {cmds : List Command} (h : Covers w mm off p cmds) {v2 : Bool}
    (hmm : 2 ≤ mm) (hv1 : v2 = false → 3 ≤ mm) (raw : Bool) (e : Enc) :
    (cmds.foldl (Enc.putCommand v2 raw w) e).out.length ≤ e.out.length + (2 * (w.length - p) + 8) := by
  induction h generalizing e with
  | last final lits endsAt =>
    have hput := Enc.length_putCommand_final final v2 raw w e
    simp only [List.foldl_cons, List.foldl_nil]
    omega
  | @cons off p c m cs hmatch lits here rest ih =>
    have hmin := here.min_le
    have hfits := here.fits
    have hput := Enc.length_putCommand_match hmatch (v2 := v2) (hmm.trans hmin) (fun h => (hv1 h).trans hmin) raw w e
    have hrest := ih (e.putCommand v2 raw w c)
    rw [List.foldl_cons]
    omega

theorem length_compress_le (c : Ctx) (k : Work) {w : List Byte} {hist : Nat} (hfmt : c.fmt = 1#2 ∨ c.fmt = 2#2)
    (hmin : minMatchFloor c.fmt ≤ c.minmatch) (hhist : hist ≤ w.length) :
    (compress c k w hist).2.length ≤ 2 * (w.length - hist) + 8 := by
  have hfloor : 2 ≤ c.minmatch ∧ ((c.fmt == 2#2) = false → 3 ≤ c.minmatch) := by
    obtain hv1 | hv2 := hfmt
    · rw [hv1] at hmin ⊢
      have h3 : 3 ≤ c.minmatch := hmin
      exact ⟨by omega, fun _ => h3⟩
    · rw [hv2] at hmin ⊢
      exact ⟨hmin, nofun⟩
  rw [compress_out]
  simpa [encodeTokens, Enc.start] using (covers_compress c k hhist).length_le hfloor.1 hfloor.2 c.raw Enc.start

/-- Settles O57: twice the bytes of each command, and the final command's fields; with such a capacity no check of a
`SHRINK` ends with `OUT_TOO_SMALL`. -/
theorem twiceTheInputSuffices : Obligations.TwiceTheInputSuffices := by
  refine ⟨fun c k w hist hfmt hmin hhist => length_compress_le c k hfmt hmin hhist, fun s t hs hrun hcap herr => ?_⟩
  cases hvalid : s.ctx.valid with
  | false =>
    have ht := hrun.symm.trans (execShrink_of_no_context hvalid)
    cases ht
    cases herr
  | true =>
    obtain ⟨-, hmin, -, hfmt⟩ := hs.context.1 hvalid
    obtain hok | ⟨k, -, hfails⟩ := s.shrinkSucceeds_or_fails
    · obtain ⟨-, hok, -⟩ := shrink_of_succeeds hvalid hrun hok
      exact absurd (hok.symm.trans herr) (by decide)
    · obtain ⟨-, hk, -⟩ := shrink_of_fails hvalid hrun hfails
      obtain rfl : k = .outTooSmall := hk.symm.trans herr
      have hblock := length_compress_le s.ctx s.work (w := s.readBytes .win 0 (s.arg0.toNat + s.arg1.toNat))
        (hist := s.arg0.toNat) hfmt hmin (by simp)
      rw [State.readBytes_length, Nat.add_sub_cancel_left] at hblock
      have hsize : s.compressed.2.length ≤ s.arg2.toNat := hblock.trans hcap
      obtain hrejects | ⟨-, ⟨hsmall, -⟩ | ⟨-, -, -, hk⟩⟩ := hfails
      · simp [State.shrinkRejects] at hrejects
      · omega
      · cases hk

end Sys2Proof.Machine
end

section
/-! Runs of the Block Decoder (R274 to R276): how it comes to the next form of the stream, and how a command is done once
its literal count, its offset and its match length are on the wire. Both formats are read through these lemmas. -/

namespace Sys2Proof.Machine

/-! ### Bytes in a memory -/

/-- The memory holds the bytes `bs` from address `a` on. -/
def State.holds (s : State) (sp : Space) (a : Nat) (bs : List Byte) : Prop := s.readBytes sp a bs.length = bs

theorem State.readBytes_add (s : State) (sp : Space) (a m n : Nat) :
    s.readBytes sp a (m + n) = s.readBytes sp a m ++ s.readBytes sp (a + m) n := by
  induction m generalizing a with
  | zero => simp [State.readBytes]
  | succ m ih =>
    rw [Nat.add_right_comm, State.readBytes, State.readBytes, ih, List.cons_append, Nat.add_right_comm, Nat.add_assoc]

theorem State.holds_append {s : State} {sp : Space} {a : Nat} {xs ys : List Byte} :
    s.holds sp a (xs ++ ys) ↔ s.holds sp a xs ∧ s.holds sp (a + xs.length) ys := by
  unfold State.holds
  rw [List.length_append, State.readBytes_add]
  refine ⟨fun h => List.append_inj h (State.readBytes_length ..), fun ⟨hx, hy⟩ => by rw [hx, hy]⟩

theorem State.holds_cons {s : State} {sp : Space} {a : Nat} {b : Byte} {bs : List Byte} :
    s.holds sp a (b :: bs) ↔ s.readByte sp a = b ∧ s.holds sp (a + 1) bs := by
  simp [State.holds, State.readBytes]

theorem State.holds.getElem? {s : State} {sp : Space} {a : Nat} {bs : List Byte} (h : s.holds sp a bs) {j : Nat}
    (hj : j < bs.length) : bs[j]? = some (s.readByte sp (a + j)) := by
  have hj' : j < (s.readBytes sp a bs.length).length := by rwa [State.readBytes_length]
  rw [← State.readBytes_getElem s sp a bs.length j hj', List.getElem?_eq_some_iff]
  exact ⟨hj, by simp only [show s.readBytes sp a bs.length = bs from h]⟩

@[simp] theorem State.holds_withDec (s : State) (d : Dec) (sp : Space) (a : Nat) (bs : List Byte) :
    (s.withDec d).holds sp a bs ↔ s.holds sp a bs := by
  rw [State.holds, State.readBytes_withDec, State.holds]

/-- A run of the decoder changes no byte of the stream. -/
theorem State.Advanced.readByte_din {s t : State} (h : s.Advanced t) (a : Nat) :
    t.readByte .din a = s.readByte .din a := by
  rw [h.rest]
  rfl

theorem State.Advanced.holds_din {s t : State} (h : s.Advanced t) (a : Nat) (bs : List Byte) :
    t.holds .din a bs ↔ s.holds .din a bs := by
  rw [State.holds, State.holds, State.readBytes_congr fun _ _ => h.readByte_din _]

/-! ### Runs -/

/-- An `EXPAND` is running, and the host has no access to come. -/
structure State.Running (s : State) : Prop where
  busy : s.busy = true
  host : s.host = []
  expect : s.dec.expect ≠ .cmdw

theorem State.Running.advanced {s t : State} (hs : s.Running) (h : s.Advanced t) : t.Running where
  busy := by rw [h.rest]; exact hs.busy
  host := by rw [h.rest]; exact hs.host
  expect := h.range.expect hs.expect

theorem State.Running.turn {s : State} (hs : s.Running) : s.engineTurnNext := ⟨hs.busy, .inl hs.host⟩

/-- `n` steps lead from `s` to `t`, both in one running `EXPAND`; each step reads a nibble of the stream at least. -/
structure State.Runs (n : Nat) (s t : State) : Prop where
  run : Host.Core.run core n s = .next t
  advanced : s.Advanced t
  progress : 2 * s.dec.ip + t.dec.nibh.toNat + n ≤ 2 * t.dec.ip + s.dec.nibh.toNat

theorem State.Runs.refl (s : State) : State.Runs 0 s s := ⟨rfl, .refl s, le_rfl⟩

theorem run_add {m : Nat} {s t : State} (h : Host.Core.run core m s = .next t) (n : Nat) :
    Host.Core.run core (m + n) s = Host.Core.run core n t := by
  induction m generalizing s with
  | zero => cases h; rw [Nat.zero_add]
  | succ m ih =>
    rw [Nat.add_right_comm]
    simp only [Host.Core.run] at h ⊢
    cases hstep : core.step s with
    | next s' =>
      rw [hstep] at h
      exact ih h
    | fault r =>
      rw [hstep] at h
      cases h
    | refused r =>
      rw [hstep] at h
      cases h

theorem State.Runs.trans {m n : Nat} {s t u : State} (h : State.Runs m s t) (k : State.Runs n t u) :
    State.Runs (m + n) s u where
  run := (run_add h.run n).trans k.run
  advanced := h.advanced.trans k.advanced
  progress := by
    have h1 := h.progress
    have h2 := k.progress
    omega

/-- A step after which the `EXPAND` still runs. -/
theorem State.runs_of_step {s t : State} (hs : s.Running) (hstep : step s = .next t) (hbusy : t.busy = true) :
    State.Runs 1 s t := by
  obtain ⟨t', hmove, u, hu, ht⟩ := engineMove_movesOn hs.expect
  obtain rfl : t' = t := Host.Outcome.next.inj (((step_of_engineTurnNext hs.turn).trans hmove).symm.trans hstep)
  obtain ⟨rfl, hafter⟩ | rfl | rfl := ht
  · exact ⟨run_succ_of_next hstep 0, hu, by unfold Dec.after at hafter; omega⟩
  · cases hbusy
  · cases hbusy

/-! ### Coming to a form -/

/-- `d` is at the same place of the output as `e` and holds the same offsets, in the same `EXPAND`. -/
structure Dec.SameCommand (d e : Dec) : Prop where
  operands : d.SameOperands e
  op : d.op = e.op
  rep : d.rep = e.rep
  moff : d.moff = e.moff

theorem Dec.SameCommand.trans {d e f : Dec} (h : d.SameCommand e) (k : e.SameCommand f) : d.SameCommand f :=
  ⟨h.operands.trans k.operands, h.op.trans k.op, h.rep.trans k.rep, h.moff.trans k.moff⟩

/-- After `n` steps that change decoder registers alone, the next step runs `i` from the decoder registers `d`. -/
structure State.ComesTo (s : State) (n : Nat) (i : Instr) (d : Dec) : Prop where
  same : d.SameCommand s.dec
  reached : ∃ e, State.Runs n s (s.withDec e) ∧ step (s.withDec e) = exec i (s.withDec d)

theorem State.ComesTo.step {s t : State} {n : Nat} {i : Instr} {d : Dec} (h : s.ComesTo n i d) (hs : s.Running)
    (hexec : exec i (s.withDec d) = .next t) (hbusy : t.busy = true) : State.Runs (n + 1) s t := by
  obtain ⟨e, hruns, hstep⟩ := h.reached
  exact hruns.trans (State.runs_of_step (hs.advanced hruns.advanced) (hstep.trans hexec) hbusy)

/-- The step that runs the form may also end the command. -/
theorem State.ComesTo.run {s t : State} {n : Nat} {i : Instr} {d : Dec} (h : s.ComesTo n i d)
    (hexec : exec i (s.withDec d) = .next t) : Host.Core.run core (n + 1) s = .next t := by
  obtain ⟨e, hruns, hstep⟩ := h.reached
  exact (run_add hruns.run 1).trans (run_succ_of_next (hstep.trans hexec) 0)

theorem State.Runs.comesTo {s : State} {m n : Nat} {i : Instr} {e d : Dec} (h : State.Runs m s (s.withDec e))
    (hsame : e.SameCommand s.dec) (k : (s.withDec e).ComesTo n i d) : s.ComesTo (m + n) i d := by
  obtain ⟨e', hruns, hstep⟩ := k.reached
  exact ⟨k.same.trans hsame, e', h.trans hruns, hstep⟩

/-- A form of the stream is one to three bytes long. -/
theorem length_encode_of_stream {i : Instr} (h : i.format ≠ .cmdw) : 1 ≤ (encode i).length ∧ (encode i).length ≤ 3 := by
  cases i with
  | init | destroy | shrink | getcount | expand => exact absurd rfl h
  | _ => exact ⟨by simp [encode], by simp [encode]⟩

/-- A form of whole bytes runs where its encoding stands at `IP` (R272, R274). -/
theorem State.comesTo_of_holds {s : State} {i : Instr} (hs : s.Running) (hformat : s.dec.expect = i.format)
    (hwf : i.WellFormed) (hbytes : i.format.isNibble = false) (hholds : s.holds .din s.dec.ip (encode i))
    (hfits : s.dec.ip + (encode i).length ≤ s.dec.dinsz) :
    s.ComesTo 0 i { s.dec with ip := s.dec.ip + (encode i).length } where
  same := ⟨⟨rfl, rfl, rfl, rfl, rfl⟩, rfl, rfl, rfl⟩
  reached := by
    obtain ⟨hpos, hle⟩ := length_encode_of_stream (i := i) (hformat ▸ hs.expect)
    obtain ⟨r, hr⟩ := Nat.exists_eq_add_of_le (show (encode i).length ≤ min 3 (s.dec.dinsz - s.dec.ip) by omega)
    have hstream : s.streamBytes 3 = encode i ++ s.readBytes .din (s.dec.ip + (encode i).length) r := by
      rw [State.streamBytes, hr, State.readBytes_add, hholds]
    refine ⟨s.dec, .refl s, ?_⟩
    refine stepRunsTheStreamInstruction s i _ hs.turn (hformat ▸ hbytes) (fun hend => by omega) ?_
    rw [hstream, hformat]
    exact decodeOfEncode i _ hwf

/-- A token with a full literal field holds its fields and waits (R278, R290). -/
theorem State.runs_of_literalWaits {s : State} {i : Instr} {f : OffForm} {m : Nat} {x : Format} {n : Nat} {d : Dec}
    (hs : s.Running) (h : s.ComesTo n i d) (hwaits : literalWaits i = some (f, m, x)) :
    State.Runs (n + 1) s (s.withDec { d with tokForm := f, tokM := m, expect := x }) :=
  h.step hs (tokenWaitsForLiteralExtension i _ f m x hwaits) hs.busy

/-! ### The literal count and the match length -/

/-- After `n` steps, a form runs that settles the literal count: `k`, with the decoder registers `d`. -/
def State.KnowsLiterals (s : State) (n : Nat) (k : LiteralKnown) (d : Dec) : Prop :=
  ∃ i, s.ComesTo n i d ∧ literalKnown d i = some k

/-- After `n` steps, a match extension runs that gives the length `len`, with the decoder registers `d`. -/
def State.KnowsLength (s : State) (n len : Nat) (d : Dec) : Prop :=
  ∃ i, s.ComesTo n i d ∧ extendedMatchLength i = some len

theorem State.KnowsLiterals.same {s : State} {n : Nat} {k : LiteralKnown} {d : Dec} (h : s.KnowsLiterals n k d) :
    d.SameCommand s.dec := by
  obtain ⟨i, hcomes, -⟩ := h
  exact hcomes.same

theorem State.Runs.knowsLiterals {s : State} {m n : Nat} {k : LiteralKnown} {e d : Dec}
    (h : State.Runs m s (s.withDec e)) (hsame : e.SameCommand s.dec) (hk : (s.withDec e).KnowsLiterals n k d) :
    s.KnowsLiterals (m + n) k d :=
  hk.imp fun _ ⟨hcomes, hknown⟩ => ⟨h.comesTo hsame hcomes, hknown⟩

theorem State.Runs.knowsLength {s : State} {m n len : Nat} {e d : Dec} (h : State.Runs m s (s.withDec e))
    (hsame : e.SameCommand s.dec) (hk : (s.withDec e).KnowsLength n len d) : s.KnowsLength (m + n) len d :=
  hk.imp fun _ ⟨hcomes, hknown⟩ => ⟨h.comesTo hsame hcomes, hknown⟩

/-! ### A whole command -/

/-- The output of a command: `nlit` literals from the stream at `src`, then a match (R280, R308). -/
def State.commandOutput (s : State) (src nlit off len : Nat) : State :=
  (s.writeBytes .dout s.dec.op (s.readBytes .din src nlit)).copyForward off (s.dec.op + nlit) len

/-- `t` has decoded a command from `s`, and the next token is expected. -/
structure State.CommandDone (s t : State) (src nlit off len : Nat) : Prop where
  output : t = (s.commandOutput src nlit off len).withDec t.dec
  expect : t.dec.expect = tokenFormat s.dec.dfmt
  op : t.dec.op = s.dec.op + nlit + len
  rep : t.dec.rep = off

/-- The position of the stream in `d` is the one behind the offset field `o`. -/
def Dec.standsAt (d : Dec) (o : WireOffset) : Prop := d.ip = o.ip ∧ d.nibh = o.nibh ∧ d.nibv = o.nibv

section
variable {s : State} {n : Nat} {k : LiteralKnown} {d : Dec} {o : WireOffset} (hs : s.Running)
  (h : s.KnowsLiterals n k d) (hmore : d.ip + k.nlit < d.dinsz)
  (hw : wireOffset (s.withDec d) (d.ip + k.nlit) k.form = some o)
include hs h hmore hw

/-- A command with an inline match length is done in the step that settles its literal count. -/
theorem State.KnowsLiterals.completes {len : Nat} (hlen : inlineMatchLength k.form k.field = some len) (hoff : 1 ≤ o.off)
    (hback : o.off ≤ s.dec.op + k.nlit) (hfits : s.dec.op + k.nlit + len ≤ s.dec.dcap) :
    ∃ t, State.Runs (n + 1) s t ∧ s.CommandDone t d.ip k.nlit o.off len ∧ t.dec.standsAt o := by
  obtain ⟨i, hcomes, hknown⟩ := h
  have hop := hcomes.same.op
  have hcap := hcomes.same.operands.dcap
  have hexec := commandWithInlineMatchCompletes i (s.withDec d) k o len hknown hmore (by simp; omega) hw hlen hoff
    (by simp; omega) (by simp; omega)
  refine ⟨_, hcomes.step hs hexec ?_, ?_, rfl, rfl, rfl⟩
  · rw [State.copyForward_frame]
    exact hs.busy
  · refine ⟨?_, ?_, ?_, rfl⟩
    · simp only [State.commandOutput, State.literalsCopied, State.withDec_dec, State.readBytes_withDec,
        State.writeBytes_withDec, State.copyForward_withDec, hop]
      rfl
    · simp [tokenFormat, hcomes.same.operands.dfmt]
    · simp [hop]

/-- A command with a full match field waits, its literals copied and its offset held. -/
theorem State.KnowsLiterals.waits (hop : s.dec.op + k.nlit ≤ s.dec.dcap) (hfull : inlineMatchLength k.form k.field = none) :
    ∃ e, State.Runs (n + 1) s ((s.writeBytes .dout s.dec.op (s.readBytes .din d.ip k.nlit)).withDec e) ∧
      e.standsAt o ∧ e.op = s.dec.op + k.nlit ∧ e.moff = o.off ∧ e.expect = matchExtensionFormat k.form := by
  obtain ⟨i, hcomes, hknown⟩ := h
  have hsame := hcomes.same.op
  have hcap := hcomes.same.operands.dcap
  have hexec := commandWaitsForMatchExtension i (s.withDec d) k o hknown hmore (by simp; omega) hw hfull
  refine ⟨{ d with
    ip := o.ip, nibh := o.nibh, nibv := o.nibv, op := d.op + k.nlit, moff := o.off, tokForm := k.form, tokM := k.field,
    expect := matchExtensionFormat k.form },
    hcomes.step hs (hexec.trans ?_) hs.busy, ⟨rfl, rfl, rfl⟩, ?_, rfl, rfl⟩
  · simp only [State.literalsCopied, State.withDec_dec, State.readBytes_withDec, State.writeBytes_withDec, hsame]
    rfl
  · simp [hsame]

end

/-- A command that waits for its match length is done in the step of the match extension. -/
theorem State.KnowsLength.completes {s : State} {n m src nlit len : Nat} {e d : Dec} (hs : s.Running)
    (hwait : State.Runs n s ((s.writeBytes .dout s.dec.op (s.readBytes .din src nlit)).withDec e))
    (h : ((s.writeBytes .dout s.dec.op (s.readBytes .din src nlit)).withDec e).KnowsLength m len d)
    (hop : e.op = s.dec.op + nlit) (hlen : 1 ≤ len) (hoff : 1 ≤ e.moff) (hback : e.moff ≤ s.dec.op + nlit)
    (hfits : s.dec.op + nlit + len ≤ s.dec.dcap) :
    ∃ t, State.Runs (n + (m + 1)) s t ∧ s.CommandDone t src nlit e.moff len ∧
      t.dec.ip = d.ip ∧ t.dec.nibh = d.nibh ∧ t.dec.nibv = d.nibv := by
  obtain ⟨i, hcomes, hlength⟩ := h
  have hdop : d.op = s.dec.op + nlit := hcomes.same.op.trans hop
  have hmoff : d.moff = e.moff := hcomes.same.moff
  have hoperands : d.SameOperands s.dec := hcomes.same.operands.trans hwait.advanced.operands
  have hcap := hoperands.dcap
  have hexec := matchExtensionCompletes i
    (((s.writeBytes .dout s.dec.op (s.readBytes .din src nlit)).withDec e).withDec d) len hlength hlen
    (by simp; omega) (by simp; omega) (by simp; omega)
  have hrun := hcomes.step (hs.advanced hwait.advanced) hexec (by
    rw [State.copyForward_frame]
    exact hs.busy)
  refine ⟨_, hwait.trans hrun, ⟨?_, ?_, ?_, hmoff⟩, rfl, rfl, rfl⟩
  · simp only [State.commandOutput, State.withDec_dec, State.copyForward_withDec, hdop, hmoff]
    rfl
  · simp [tokenFormat, hoperands.dfmt]
  · simp [hdop]

/-! ### The bytes of a command -/

/-- Each byte of a copied match is the one `off` bytes back (R308). -/
theorem State.copyForward_repeats (s : State) {off op len : Nat} (hoff : 1 ≤ off) (hback : off ≤ op) {j : Nat}
    (hj : j < len) :
    (s.copyForward off op len).readByte .dout (op + j) = (s.copyForward off op len).readByte .dout (op + j - off) := by
  obtain ⟨hinside, houtside, -⟩ := matchCopyRepeatsThePattern s off op len hoff hback
  rw [hinside j hj]
  obtain hfirst | hlater := Nat.lt_or_ge j off
  · rw [houtside _ (by omega), Nat.mod_eq_of_lt hfirst]
    congr 1
    omega
  · rw [show op + j - off = op + (j - off) by omega, hinside (j - off) (by omega), Nat.mod_eq_sub_mod hlater]

section
variable (s : State) (src nlit len : Nat) {off : Nat} (hoff : 1 ≤ off) (hback : off ≤ s.dec.op + nlit)
include hoff hback

theorem State.commandOutput_out {a : Nat} (ha : a < s.dec.op ∨ s.dec.op + nlit + len ≤ a) :
    (s.commandOutput src nlit off len).readByte .dout a = s.readByte .dout a := by
  rw [State.commandOutput, (matchCopyRepeatsThePattern _ off _ len hoff hback).2.1 a (by omega),
    State.readByte_writeBytes_same, dif_neg (by rw [State.readBytes_length]; omega)]

theorem State.commandOutput_literal {j : Nat} (hj : j < nlit) :
    (s.commandOutput src nlit off len).readByte .dout (s.dec.op + j) = s.readByte .din (src + j) := by
  rw [State.commandOutput, (matchCopyRepeatsThePattern _ off _ len hoff hback).2.1 _ (by omega),
    State.readByte_writeBytes_same]
  simp [hj, State.readBytes_getElem]

theorem State.commandOutput_match {j : Nat} (hj : j < len) :
    (s.commandOutput src nlit off len).readByte .dout (s.dec.op + nlit + j) =
      (s.commandOutput src nlit off len).readByte .dout (s.dec.op + nlit + j - off) :=
  State.copyForward_repeats _ hoff hback hj

end

end Sys2Proof.Machine
end

section
/-! A V1 command on the wire is decoded back (R237 to R240, R278 to R289). -/

namespace Sys2Proof.Machine

/-! ### Fields of bytes -/

theorem toNat_byteOf (n : Nat) : (byteOf n).toNat = n % 256 := BitVec.toNat_ofNat _ _

/-- The two bytes of a 16-bit field, low first. -/
theorem lohi_eq {n : Nat} (h : n ≤ 65535) : lohi n = [loByte (BitVec.ofNat 16 n), hiByte (BitVec.ofNat 16 n)] := by
  have hlo : byteOf (n % 256) = loByte (BitVec.ofNat 16 n) := by
    apply BitVec.eq_of_toNat_eq
    simp [toNat_byteOf, loByte, BitVec.extractLsb'_toNat]
  have hhi : byteOf (n / 256) = hiByte (BitVec.ofNat 16 n) := by
    apply BitVec.eq_of_toNat_eq
    simp [toNat_byteOf, hiByte, BitVec.extractLsb'_toNat, Nat.shiftRight_eq_div_pow]
    omega
  rw [lohi, hlo, hhi]

theorem toNat_append_eq {m n : Nat} (x : BitVec m) (y : BitVec n) : (x ++ y).toNat = 2 ^ n * x.toNat + y.toNat := by
  rw [BitVec.toNat_append, ← Nat.shiftLeft_add_eq_or_of_lt y.isLt, Nat.shiftLeft_eq, Nat.mul_comm]

/-! ### The token -/

/-- The V1 token of an offset form (R98). -/
def v1Token (wide : Bool) (lll : BitVec 3) (mmmm : BitVec 4) : Instr :=
  if wide then .v1Cmd16 lll mmmm else .v1Cmd8 lll mmmm

/-- The offset form a V1 token selects (R98). -/
def v1Form (wide : Bool) : OffForm := if wide then .o16 else .o8

/-- The V1 token byte with fields in range is the encoding of the token. -/
theorem encode_v1Token (wide : Bool) {a b : Nat} (ha : a ≤ 7) (hb : b ≤ 15) :
    encode (v1Token wide (BitVec.ofNat 3 a) (BitVec.ofNat 4 b)) = [byteOf (128 * wide.toNat + 16 * a + b)] := by
  have hbyte (o : BitVec 1) : o ++ BitVec.ofNat 3 a ++ BitVec.ofNat 4 b = byteOf (128 * o.toNat + 16 * a + b) := by
    apply BitVec.eq_of_toNat_eq
    rw [toNat_append_eq, toNat_append_eq, BitVec.toNat_ofNat, BitVec.toNat_ofNat, toNat_byteOf]
    omega
  cases wide <;> simp [v1Token, encode, hbyte]

theorem v1Token_format (wide : Bool) (lll : BitVec 3) (mmmm : BitVec 4) : (v1Token wide lll mmmm).format = .v1tok := by
  cases wide <;> rfl

theorem v1Token_wf (wide : Bool) (lll : BitVec 3) (mmmm : BitVec 4) : (v1Token wide lll mmmm).WellFormed := by
  cases wide <;> rfl

theorem literalKnown_v1Token (d : Dec) (wide : Bool) {lll : BitVec 3} (h : lll.toNat < 7) (mmmm : BitVec 4) :
    literalKnown d (v1Token wide lll mmmm) = some ⟨lll.toNat, v1Form wide, mmmm.toNat⟩ := by
  cases wide <;> exact if_pos h

theorem literalWaits_v1Token (wide : Bool) {lll : BitVec 3} (h : lll.toNat = 7) (mmmm : BitVec 4) :
    literalWaits (v1Token wide lll mmmm) = some (v1Form wide, mmmm.toNat, .v1litx) := by
  cases wide <;> exact if_pos h

/-! ### The extensions -/

/-- The bytes of a V1 literal extension are one instruction, which gives the count (R238, R281 to R283). -/
theorem v1LitExt_eq_encode {nl : Nat} (hmin : 7 ≤ nl) (hmax : nl ≤ 65535) :
    ∃ i, v1LitExt nl = encode i ∧ i.format = .v1litx ∧ i.WellFormed ∧
      ∀ d, literalKnown d i = some ⟨nl, d.tokForm, d.tokM⟩ := by
  unfold v1LitExt
  rw [if_neg (by omega)]
  split_ifs with h8 h9
  · have hb : (byteOf (nl - 7)).toNat = nl - 7 := by rw [toNat_byteOf]; omega
    exact ⟨.v1Litx8 (byteOf (nl - 7)), rfl, rfl, by simp [Instr.WellFormed, Instr.wf, hb]; omega,
      fun d => by simp [literalKnown, hb]; omega⟩
  · have hb : (byteOf (nl - 256)).toNat = nl - 256 := by rw [toNat_byteOf]; omega
    exact ⟨.v1Litx9 (byteOf (nl - 256)), rfl, rfl, rfl, fun d => by simp [literalKnown, hb]; omega⟩
  · exact ⟨.v1Litx16 (BitVec.ofNat 16 nl), by rw [lohi_eq hmax]; rfl, rfl, rfl,
      fun d => by simp [literalKnown]; omega⟩

/-- The bytes of a V1 match extension are one instruction, which gives the length (R240, R287 to R289). -/
theorem v1MatchExt_eq_encode {len : Nat} (hmin : 18 ≤ len) (hmax : len ≤ 65535) :
    ∃ i, v1MatchExt len = encode i ∧ i.format = .v1mlx ∧ i.WellFormed ∧ extendedMatchLength i = some len := by
  unfold v1MatchExt
  rw [if_neg (by omega)]
  split_ifs with h8 h9
  · have hb : (byteOf (len - 18)).toNat = len - 18 := by rw [toNat_byteOf]; omega
    exact ⟨.v1Mlx8 (byteOf (len - 18)), rfl, rfl, by simp [Instr.WellFormed, Instr.wf, hb]; omega,
      by simp [extendedMatchLength, hb]; omega⟩
  · have hb : (byteOf (len - 256)).toNat = len - 256 := by rw [toNat_byteOf]; omega
    exact ⟨.v1Mlx9 (byteOf (len - 256)), rfl, rfl, rfl, by simp [extendedMatchLength, hb]; omega⟩
  · exact ⟨.v1Mlx16 (BitVec.ofNat 16 len), by rw [lohi_eq hmax]; rfl, rfl,
      by simp [Instr.WellFormed, Instr.wf]; omega, by simp [extendedMatchLength]; omega⟩

/-! ### The parts of a command -/

theorem State.holds.readByte {s : State} {sp : Space} {a : Nat} {bs : List Byte} (h : s.holds sp a bs) {j : Nat} {b : Byte}
    (hj : bs[j]? = some b) : s.readByte sp (a + j) = b := by
  obtain ⟨hlt, -⟩ := List.getElem?_eq_some_iff.1 hj
  exact Option.some.inj ((h.getElem? hlt).symm.trans hj)

/-- The offset field of a V1 command carries its offset (R239, R284, R285). -/
theorem wireOffset_v1 {s : State} {p off : Nat} (hmin : 1 ≤ off) (hmax : off ≤ 65535) (hbytes : s.holds .din p (v1Offset off))
    (hfits : p + (v1Offset off).length ≤ s.dec.dinsz) :
    wireOffset s p (v1Form (decide (256 < off))) = some ⟨off, p + (v1Offset off).length, s.dec.nibh, s.dec.nibv⟩ := by
  by_cases hwide : 256 < off
  · have hfield : v1Offset off = [byteOf ((65536 - off) % 256), byteOf ((65536 - off) / 256)] := if_pos hwide
    rw [hfield] at hbytes hfits ⊢
    obtain ⟨hlo, hhi, -⟩ := (State.holds_cons.1 hbytes).imp_right State.holds_cons.1
    simp only [List.length_cons, List.length_nil] at hfits ⊢
    simp only [v1Form, hwide, decide_true, if_true, wireOffset, hlo, hhi, toNat_byteOf]
    rw [if_pos (by omega)]
    congr 2
    omega
  · have hfield : v1Offset off = [byteOf ((65536 - off) % 256)] := if_neg hwide
    rw [hfield] at hbytes hfits ⊢
    obtain ⟨hlo, -⟩ := State.holds_cons.1 hbytes
    simp only [List.length_cons, List.length_nil] at hfits ⊢
    simp only [v1Form, hwide, decide_false, Bool.false_eq_true, if_false, wireOffset, hlo, toNat_byteOf]
    rw [if_pos (by omega)]
    congr 2
    omega

section
variable {s : State} (hs : s.Running) (hexpect : s.dec.expect = .v1tok)
include hs hexpect

/-- The token of a V1 command settles its literal count, or waits one step for the extension that does. -/
theorem v1_knowsLiterals (wide : Bool) {nl field : Nat} (hnl : nl ≤ 65535) (hfield : field ≤ 15)
    (hbytes : s.holds .din s.dec.ip (byteOf (128 * wide.toNat + 16 * min nl 7 + field) :: v1LitExt nl))
    (hfits : s.dec.ip + (1 + (v1LitExt nl).length) ≤ s.dec.dinsz) :
    ∃ n d, n ≤ 1 ∧ s.KnowsLiterals n ⟨nl, v1Form wide, field⟩ d ∧ d.ip = s.dec.ip + (1 + (v1LitExt nl).length) := by
  have hlll : (BitVec.ofNat 3 (min nl 7)).toNat = min nl 7 := by rw [BitVec.toNat_ofNat]; omega
  have hmmmm : (BitVec.ofNat 4 field).toNat = field := by rw [BitVec.toNat_ofNat]; omega
  obtain ⟨htoken, hext⟩ := (State.holds_append (xs := [_]) (ys := v1LitExt nl)).1 hbytes
  have hencode := encode_v1Token wide (Nat.min_le_right nl 7) hfield
  rw [← hencode] at htoken
  have hlength : (encode (v1Token wide (BitVec.ofNat 3 (min nl 7)) (BitVec.ofNat 4 field))).length = 1 := by rw [hencode]; rfl
  have hcomes := s.comesTo_of_holds hs (hexpect.trans (v1Token_format ..).symm) (v1Token_wf ..)
    (by rw [v1Token_format]; rfl) htoken (by omega)
  rw [hlength] at hcomes
  obtain hinline | hfull := Nat.lt_or_ge nl 7
  · have hnone := (length_v1LitExt_le nl).2 hinline
    exact ⟨0, _, Nat.zero_le _, ⟨_, hcomes, by
      rw [literalKnown_v1Token _ wide (hlll.trans_lt (by omega)), hlll, hmmmm, Nat.min_eq_left hinline.le]⟩, by simp [hnone]⟩
  · have hwait := s.runs_of_literalWaits hs hcomes (literalWaits_v1Token wide (hlll.trans (by omega)) _)
    obtain ⟨i, hi, hformat, hwf, hknown⟩ := v1LitExt_eq_encode hfull hnl
    rw [hi] at hext hfits ⊢
    rw [hmmmm] at hwait
    have hcomes' := State.comesTo_of_holds (hs.advanced hwait.advanced) (i := i) hformat.symm hwf (by rw [hformat]; rfl)
      (by simpa using hext) (by simp; omega)
    exact ⟨1, _, le_rfl, hwait.knowsLiterals ⟨⟨rfl, rfl, rfl, rfl, rfl⟩, rfl, rfl, rfl⟩ ⟨i, hcomes', hknown _⟩, by
      simp [Nat.add_assoc]⟩

end

theorem v1Command_of_match {c : Command} {m : MatchPart} (hm : c.match? = some m) (raw : Bool) (w : List Byte) :
    v1Command raw w c =
      (byteOf (128 * (decide (256 < m.off)).toNat + 16 * min c.nl 7 + min (m.len - 3) 15) :: v1LitExt c.nl) ++
        (literalsOf w c ++ (v1Offset m.off ++ v1MatchExt m.len)) := by
  have hwide : (if 256 < m.off then 1 else 0) = (decide (256 < m.off)).toNat := by split_ifs <;> simp [*]
  simp [v1Command, hm, hwide]

theorem inlineMatchLength_v1Form (wide : Bool) (field : Nat) :
    inlineMatchLength (v1Form wide) field = if field < 15 then some (field + 3) else none := by
  cases wide <;> rfl

theorem matchExtensionFormat_v1Form (wide : Bool) : matchExtensionFormat (v1Form wide) = .v1mlx := by
  cases wide <;> rfl

/-- The decoder reads a V1 command with a match in at most three steps (R278 to R289). -/
theorem v1Command_decodes {s : State} (hs : s.Running) (hexpect : s.dec.expect = .v1tok) {raw : Bool} {w : List Byte}
    {c : Command} {m : MatchPart} (hm : c.match? = some m) (hoff : 1 ≤ m.off) (hoff' : m.off ≤ 65535) (hlen : 3 ≤ m.len)
    (hlen' : m.len ≤ 32767) (hnl : c.nl ≤ 65535) (hlits : (literalsOf w c).length = c.nl)
    (hbytes : s.holds .din s.dec.ip (v1Command raw w c)) (hin : s.dec.ip + (v1Command raw w c).length ≤ s.dec.dinsz)
    (hout : s.dec.op + c.nl + m.len ≤ s.dec.dcap) (hback : m.off ≤ s.dec.op + c.nl) :
    ∃ n t src, n ≤ 3 ∧ State.Runs n s t ∧ s.CommandDone t src c.nl m.off m.len ∧
      t.dec.ip = s.dec.ip + (v1Command raw w c).length ∧ s.holds .din src (literalsOf w c) := by
  rw [v1Command_of_match hm] at hbytes hin ⊢
  obtain ⟨hhead, htail⟩ := State.holds_append.1 hbytes
  obtain ⟨hliterals, hfields⟩ := State.holds_append.1 htail
  obtain ⟨hoffset, hext⟩ := State.holds_append.1 hfields
  simp only [List.length_append, List.length_cons, hlits] at hin hliterals hoffset hext ⊢
  have hpos : 1 ≤ (v1Offset m.off).length := by unfold v1Offset; split_ifs <;> simp
  obtain ⟨n, d, hn, hknown, hip⟩ := v1_knowsLiterals hs hexpect (decide (256 < m.off)) hnl (Nat.min_le_right (m.len - 3) 15)
    hhead (by omega)
  have hsize := hknown.same.operands.dinsz
  have hw : wireOffset (s.withDec d) (d.ip + c.nl) (v1Form (decide (256 < m.off))) = _ :=
    wireOffset_v1 (s := s.withDec d) hoff hoff' (by
      rw [State.holds_withDec, hip]; simpa [Nat.add_comm, Nat.add_left_comm, Nat.add_assoc] using hoffset) (by
      simp only [State.withDec_dec]; omega)
  have hsrc : s.holds .din d.ip (literalsOf w c) := by rw [hip, Nat.add_comm 1]; exact hliterals
  have hmore : d.ip + c.nl < d.dinsz := by omega
  obtain hinline | hfull := Nat.lt_or_ge m.len 18
  · have hfield : inlineMatchLength (v1Form (decide (256 < m.off))) (min (m.len - 3) 15) = some m.len := by
      rw [inlineMatchLength_v1Form, if_pos (by omega)]
      congr 1
      omega
    obtain ⟨t, hruns, hdone, hat, -⟩ := hknown.completes hs hmore hw hfield hoff hback hout
    have hnone := (length_v1MatchExt_le m.len).2 hinline
    exact ⟨n + 1, t, d.ip, by omega, hruns, hdone, by rw [hat]; simp only; omega, hsrc⟩
  · have hfield : inlineMatchLength (v1Form (decide (256 < m.off))) (min (m.len - 3) 15) = none := by
      rw [inlineMatchLength_v1Form, if_neg (by omega)]
    obtain ⟨e, hruns, ⟨hat, -⟩, hop, hmoff, hform⟩ := hknown.waits hs hmore hw (by simp only; omega) hfield
    obtain ⟨i, hi, hformat, hwf, hlength⟩ := v1MatchExt_eq_encode hfull (by omega)
    rw [hi] at hext hin ⊢
    rw [matchExtensionFormat_v1Form] at hform
    simp only at hat hmoff hop hruns
    have hsize' := hruns.advanced.operands.dinsz
    have hcomes := State.comesTo_of_holds (hs.advanced hruns.advanced) (i := i) (hform.trans hformat.symm) hwf
      (by rw [hformat]; rfl)
      ((hruns.advanced.holds_din _ _).2 (by
        rw [State.withDec_dec, hat, hip]
        simpa [Nat.add_comm, Nat.add_left_comm, Nat.add_assoc] using hext))
      (by simp only [State.withDec_dec] at hsize' ⊢; omega)
    obtain ⟨t, hruns', hdone, hat', -⟩ := State.KnowsLength.completes hs hruns ⟨i, hcomes, hlength⟩ hop (by omega)
      (by omega) (by omega) hout
    rw [hmoff] at hdone
    exact ⟨n + 1 + (0 + 1), t, d.ip, by omega, hruns', hdone, by rw [hat']; simp only [State.withDec_dec]; omega, hsrc⟩

/-- Settles O58: the command is decoded in at most three steps, and its output is that of the literals and the copy. -/
theorem v1CommandDecodesBack : Obligations.V1CommandDecodesBack := by
  intro s raw w c m hm hoff hoff' hlen hlen' hnl hwin hbusy hhost hexpect hfmt hbytes hin hout hback
  have hs : s.Running := ⟨hbusy, hhost, by rw [hexpect]; decide⟩
  have hlits : (literalsOf w c).length = c.nl := by rw [literalsOf, List.length_take, List.length_drop]; omega
  obtain ⟨n, t, src, hn, hruns, hdone, hip, hsrc⟩ :=
    v1Command_decodes hs hexpect hm hoff hoff' hlen hlen' hnl hlits hbytes hin hout hback
  have hread (a : Nat) : t.readByte .dout a = (s.commandOutput src c.nl m.off m.len).readByte .dout a := by
    rw [hdone.output, State.readByte_withDec]
  refine ⟨n, t, hn, hruns.run, (hs.advanced hruns.advanced).busy, ?_, hip, hdone.op, hdone.rep, fun j hj => ?_,
    fun j hj => ?_, fun a ha => ?_⟩
  · rw [hdone.expect, hfmt]
    rfl
  · rw [hread, s.commandOutput_literal src c.nl m.len hoff hback hj, ← hsrc.getElem? (hlits.symm ▸ hj), literalsOf,
      List.getElem?_take_of_lt hj, List.getElem?_drop]
  · rw [hread, hread, s.commandOutput_match src c.nl m.len hoff hback hj]
  · rw [hread, s.commandOutput_out src c.nl m.len hoff hback ha]

end Sys2Proof.Machine
end

section
/-! The round trip of a block (R251): what the output holds while the commands are decoded, and how the final command
ends an `EXPAND`. -/

namespace Sys2Proof.Machine

/-! ### The window in the output -/

/-- The output holds the first `p` bytes of the window. -/
def State.HoldsWindow (s : State) (w : List Byte) (p : Nat) : Prop := ∀ a, a < p → some (s.readByte .dout a) = w[a]?

theorem State.HoldsWindow.congr {s t : State} {w : List Byte} {p : Nat} (h : s.HoldsWindow w p) (hdout : t.dout = s.dout)
    (hgen : t.gen = s.gen) : t.HoldsWindow w p := fun a ha => by
  rw [State.readByte_congr (sp := .dout) hdout hgen, h a ha]

theorem State.holdsWindow_withDec {s : State} {w : List Byte} {p : Nat} (d : Dec) :
    (s.withDec d).HoldsWindow w p ↔ s.HoldsWindow w p := by
  simp only [State.HoldsWindow, State.readByte_withDec]

/-- The literals at the end of the output lengthen the part of the window it holds. -/
theorem State.HoldsWindow.literals {s : State} {w : List Byte} {p n : Nat} (h : s.HoldsWindow w p) (hfits : p + n ≤ w.length) :
    (s.writeBytes .dout p ((w.drop p).take n)).HoldsWindow w (p + n) := by
  have hlen : ((w.drop p).take n).length = n := by rw [List.length_take, List.length_drop]; omega
  intro a ha
  rw [State.readByte_writeBytes_same]
  split_ifs with hin
  · rw [List.getElem_take, List.getElem_drop, List.getElem?_eq_getElem (by omega)]
    congr 2
    omega
  · exact h a (by omega)

/-- So does a match, which repeats bytes of the window (R168, R308). -/
theorem State.HoldsWindow.copy {s : State} {w : List Byte} {q off len : Nat} (h : s.HoldsWindow w q)
    (hmatch : MatchAt w q off len) : (s.copyForward off q len).HoldsWindow w (q + len) := by
  obtain ⟨hoff, hback, -, -, hsame⟩ := hmatch
  intro a
  induction a using Nat.strong_induction_on with
  | _ a ih =>
    intro ha
    obtain hbefore | hin := Nat.lt_or_ge a q
    · rw [State.copyForward_readByte_out _ _ _ _ _ (.inl hbefore)]
      exact h a hbefore
    · obtain ⟨j, rfl⟩ := Nat.exists_eq_add_of_le hin
      rw [s.copyForward_repeats hoff hback (by omega), ih (q + j - off) (by omega) (by omega), ← hsame j (by omega)]
      congr 1
      omega

theorem State.HoldsWindow.readBytes {s : State} {w : List Byte} (h : s.HoldsWindow w w.length) :
    s.readBytes .dout 0 w.length = w := by
  refine List.ext_getElem (State.readBytes_length ..) fun i hi hi' => ?_
  rw [State.readBytes_getElem, Nat.zero_add]
  exact Option.some.inj ((h i hi').trans (List.getElem?_eq_getElem hi'))

theorem Command.LitAt.literals {w : List Byte} {p : Nat} {c : Command} (h : c.LitAt w p) :
    literalsOf w c = (w.drop p).take c.nl := by
  obtain hnone | hsome := Nat.eq_zero_or_pos c.nl
  · rw [literalsOf, hnone, List.take_zero, List.take_zero]
  · rw [literalsOf, h.start hsome]

theorem Command.LitAt.length_literals {w : List Byte} {p : Nat} {c : Command} (h : c.LitAt w p) :
    (literalsOf w c).length = c.nl := by
  have hfits := h.fits
  rw [h.literals, List.length_take, List.length_drop]
  omega

/-- The bytes the decoder copies as a command's literals are those of the window. -/
theorem Command.LitAt.readBytes {w : List Byte} {p src : Nat} {c : Command} (h : c.LitAt w p) {s : State}
    (hsrc : s.holds .din src (literalsOf w c)) : s.readBytes .din src c.nl = (w.drop p).take c.nl := by
  rw [← h.literals, ← h.length_literals]
  exact hsrc

section
variable {s t : State} {w : List Byte} {c : Command}

/-- A decoded command with a match brings the output to its end. -/
theorem State.CommandDone.holdsWindow {src off len : Nat} (h : s.CommandDone t src c.nl off len)
    (hwindow : s.HoldsWindow w s.dec.op) (hlits : c.LitAt w s.dec.op) (hsrc : s.holds .din src (literalsOf w c))
    (hmatch : MatchAt w (s.dec.op + c.nl) off len) : t.HoldsWindow w t.dec.op := by
  rw [h.output, State.holdsWindow_withDec, State.withDec_dec, h.op, State.commandOutput, hlits.readBytes hsrc]
  exact (hwindow.literals hlits.fits).copy hmatch

/-! ### The end of a block -/

/-- From `s` the `EXPAND` ends with success and the whole window in `DOUT`, in no more steps than the stream has nibbles,
and one. -/
def State.DecodesTo (s : State) (w : List Byte) : Prop :=
  ∃ (n : Nat) (t : State), n + 2 * s.dec.ip ≤ 2 * s.dec.dinsz + s.dec.nibh.toNat + 1 ∧
    Host.Core.run core n s = .next t ∧ t.busy = false ∧ t.done = true ∧ t.errcode = .ok ∧
    t.result = BitVec.ofNat 32 (w.length - s.dec.doff) ∧ t.HoldsWindow w w.length

theorem State.Runs.decodesTo {n : Nat} (h : State.Runs n s t) (k : t.DecodesTo w) : s.DecodesTo w := by
  obtain ⟨m, u, hm, hrun, hbusy, hdone, hok, hresult, hwindow⟩ := k
  have hprogress := h.progress
  have hsize := h.advanced.operands.dinsz
  refine ⟨n + m, u, by omega, (run_add h.run m).trans hrun, hbusy, hdone, hok, ?_, hwindow⟩
  rw [hresult, h.advanced.operands.doff]

variable (hs : s.Running) (hin : s.dec.ip ≤ s.dec.dinsz) (hwindow : s.HoldsWindow w s.dec.op) (hlits : c.LitAt w s.dec.op)
  (hend : s.dec.op + c.nl = w.length) (hcap : w.length ≤ s.dec.dcap)

/-- A step that ends the command, after steps of a running decoder. -/
theorem State.ComesTo.decodesTo {n : Nat} {i : Instr} {d : Dec} (h : s.ComesTo n i d) (hin : s.dec.ip ≤ s.dec.dinsz)
    (hexec : exec i (s.withDec d) = .next t) (hbusy : t.busy = false) (hdone : t.done = true) (hok : t.errcode = .ok)
    (hresult : t.result = BitVec.ofNat 32 (w.length - s.dec.doff)) (hwindow : t.HoldsWindow w w.length) :
    s.DecodesTo w := by
  refine ⟨n + 1, t, ?_, h.run hexec, hbusy, hdone, hok, hresult, hwindow⟩
  obtain ⟨e, hruns, -⟩ := h.reached
  have hprogress := hruns.progress
  have hrange := hruns.advanced.range.ip hin
  rw [State.withDec_dec] at hprogress hrange
  omega

/-- The EOD marker at the end of a raw block (R306). -/
theorem State.ComesTo.decodesTo_of_eod {n : Nat} {i : Instr} {d : Dec} (h : s.ComesTo n i d) (heod : i = .v1Eod ∨ i = .v2Eod)
    (hin : s.dec.ip ≤ s.dec.dinsz) (hraw : s.dec.draw = true) (hip : d.ip = s.dec.dinsz)
    (hwindow : s.HoldsWindow w s.dec.op) (hend : s.dec.op = w.length) : s.DecodesTo w := by
  obtain ⟨⟨-, hdraw, hsize, hdoff, -⟩, hop, -, -⟩ := h.same
  have hexec := (endOfDataMarker i (s.withDec d) heod).1 (hdraw.trans hraw) (hip.trans hsize.symm)
  rw [hend] at hwindow
  refine h.decodesTo hin hexec rfl rfl rfl ?_ (hwindow.congr rfl rfl)
  simp only [State.withDec_dec, hop, hend, hdoff]

include hin hwindow hlits hend hcap

/-- The final command of a framed block: its literals end the stream (R275). -/
theorem State.KnowsLiterals.decodesTo_framed {n : Nat} {k : LiteralKnown} {d : Dec} (h : s.KnowsLiterals n k d)
    (hk : k.nlit = c.nl) (hframed : s.dec.draw = false) (hsrc : s.holds .din d.ip (literalsOf w c))
    (hstream : d.ip + c.nl = s.dec.dinsz) : s.DecodesTo w := by
  obtain ⟨i, hcomes, hknown⟩ := h
  obtain ⟨⟨-, hdraw, hsize, hdoff, hdcap⟩, hop, -, -⟩ := hcomes.same
  have hexec := literalRunEndsFramedBlock i (s.withDec d) k hknown (hdraw.trans hframed)
    (by simp only [State.withDec_dec]; omega) (by simp only [State.withDec_dec]; omega)
  refine hcomes.decodesTo hin hexec rfl rfl rfl ?_ ?_
  · simp only [State.withDec_dec, hop, hk, hend, hdoff]
  · have hliterals := hwindow.literals hlits.fits
    rw [← hlits.readBytes hsrc, hend, ← hk, ← hop] at hliterals
    exact hliterals.congr (by simp [State.literalsCopied]; rfl) (by simp [State.literalsCopied])

include hs in
/-- The final command of a raw block: its literals, an offset that is not used, and the EOD marker (R306). -/
theorem State.KnowsLiterals.decodesTo_raw {n : Nat} {k : LiteralKnown} {d : Dec} {o : WireOffset} {i : Instr}
    (h : s.KnowsLiterals n k d) (hk : k.nlit = c.nl) (hraw : s.dec.draw = true)
    (hsrc : s.holds .din d.ip (literalsOf w c)) (hmore : d.ip + c.nl < s.dec.dinsz)
    (hw : wireOffset (s.withDec d) (d.ip + c.nl) k.form = some o) (hfull : inlineMatchLength k.form k.field = none)
    (heod : i = .v1Eod ∨ i = .v2Eod)
    (hcomes : ∀ u : State, u.Running → s.Advanced u → u.dec.standsAt o → u.dec.expect = matchExtensionFormat k.form →
      ∃ m d', u.ComesTo m i d' ∧ d'.ip = s.dec.dinsz) : s.DecodesTo w := by
  rw [← hk] at hmore hw
  have hsize := h.same.operands.dinsz
  obtain ⟨e, hruns, hat, hop, -, hform⟩ := h.waits hs (by omega) hw (by omega) hfull
  have hadv := hruns.advanced
  obtain ⟨m, d', hcomes, hip⟩ := hcomes _ (hs.advanced hadv) hadv hat hform
  have hliterals := hwindow.literals hlits.fits
  rw [← hlits.readBytes hsrc, ← hk, ← hop] at hliterals
  exact hruns.decodesTo (hcomes.decodesTo_of_eod heod (hadv.operands.dinsz ▸ hadv.range.ip hin)
    (hadv.operands.draw.trans hraw) (hip.trans hadv.operands.dinsz.symm) ((State.holdsWindow_withDec e).2 hliterals)
    (hop.trans (hk ▸ hend)))

end

/-! ### Between commands -/

/-- An `EXPAND` of a block of the window `w` stands at a token, and the output so far is the window's. -/
structure State.Decoding (s : State) (fmt : BitVec 2) (raw : Bool) (w : List Byte) : Prop where
  running : s.Running
  expect : s.dec.expect = tokenFormat fmt
  dfmt : s.dec.dfmt = fmt
  draw : s.dec.draw = raw
  within : s.dec.ip ≤ s.dec.dinsz
  capacity : w.length ≤ s.dec.dcap
  window : s.HoldsWindow w s.dec.op

section
variable {fmt : BitVec 2} {raw : Bool} {w : List Byte}

theorem State.Decoding.next {s t : State} (hs : s.Decoding fmt raw w) {n src off len : Nat} {c : Command}
    (hruns : State.Runs n s t) (h : s.CommandDone t src c.nl off len) (hlits : c.LitAt w s.dec.op)
    (hsrc : s.holds .din src (literalsOf w c)) (hmatch : MatchAt w (s.dec.op + c.nl) off len) : t.Decoding fmt raw w where
  running := hs.running.advanced hruns.advanced
  expect := by rw [h.expect, hs.dfmt]
  dfmt := hruns.advanced.operands.dfmt.trans hs.dfmt
  draw := hruns.advanced.operands.draw.trans hs.draw
  within := hruns.advanced.operands.dinsz ▸ hruns.advanced.range.ip hs.within
  capacity := hruns.advanced.operands.dcap ▸ hs.capacity
  window := h.holdsWindow hs.window hlits hsrc hmatch

variable {x : State} {block : List Byte} {hist cap : Nat} (h : StartsExpand x fmt raw block (w.take hist) cap)
  (hhist : hist ≤ w.length)
include h hhist

theorem startsExpand_op : x.dec.op = hist := by rw [h.decoder]; exact List.length_take_of_le hhist

/-- The state that `EXPAND` sets up holds the history (R271). -/
theorem startsExpand_decoding (hcap : w.length ≤ cap) : x.Decoding fmt raw w where
  running := ⟨h.running, h.polled, by rw [h.decoder]; exact tokenFormat_ne_cmdw fmt⟩
  expect := by rw [h.decoder]
  dfmt := by rw [h.decoder]
  draw := by rw [h.decoder]
  within := by rw [h.decoder]; exact Nat.zero_le _
  capacity := by rw [h.decoder]; exact hcap
  window a ha := by
    rw [startsExpand_op h hhist] at ha
    have hlen : (w.take hist).length = hist := List.length_take_of_le hhist
    have hbytes : x.holds .dout 0 (w.take hist) := h.history
    rw [← List.getElem?_take_of_lt ha, hbytes.getElem? (hlen.symm ▸ ha), Nat.zero_add]

/-- What decoding the whole block from the state that `EXPAND` sets up comes to (R310). -/
theorem State.DecodesTo.roundTrip (hdecodes : x.DecodesTo w) :
    ∃ (n : Nat) (t : State), n ≤ 2 * block.length + 2 ∧ Host.Core.run core n x = .next t ∧
      t.busy = false ∧ t.done = true ∧ t.errcode = .ok ∧ t.result = BitVec.ofNat 32 (w.length - hist) ∧
      t.readBytes .dout 0 w.length = w := by
  obtain ⟨n, t, hn, hrun, hbusy, hdone, hok, hresult, hwindow⟩ := hdecodes
  rw [h.decoder] at hn hresult
  rw [List.length_take_of_le hhist] at hresult
  exact ⟨n, t, by simp at hn; omega, hrun, hbusy, hdone, hok, hresult, hwindow.readBytes⟩

end

end Sys2Proof.Machine
end

section
/-! The round trip of a V1 block (R251): its commands one after the other, then the final command. -/

namespace Sys2Proof.Machine

/-- A V1 block is its commands' bytes in a row (R230, R232). -/
theorem foldl_putCommand_v1 (raw : Bool) (w : List Byte) (cmds : List Command) (e : Enc) :
    (cmds.foldl (Enc.putCommand false raw w) e).out = e.out ++ cmds.flatMap (v1Command raw w) := by
  induction cmds generalizing e with
  | nil => simp
  | cons c cmds ih => rw [List.foldl_cons, ih, List.flatMap_cons, ← List.append_assoc]; rfl

theorem compress_out_v1 {c : Ctx} (hfmt : c.fmt = 1#2) (k : Work) (w : List Byte) (hist : Nat) :
    (compress c k w hist).2 = (groupTokens 0 0 (compress c k w hist).1.tok).flatMap (v1Command c.raw w) := by
  have hv1 : (c.fmt == 2#2) = false := by rw [hfmt]; rfl
  rw [compress_out, encodeTokens, hv1, foldl_putCommand_v1]
  rfl

theorem v1Command_of_final {c : Command} (hm : c.match? = none) (raw : Bool) (w : List Byte) :
    v1Command raw w c =
      (byteOf (128 * false.toNat + 16 * min c.nl 7 + if raw then 15 else 0) :: v1LitExt c.nl) ++
        (literalsOf w c ++ if raw then [0x00#8, 0xEE#8, 0x00#8, 0x00#8] else []) := by
  simp [v1Command, hm]

section
variable {s : State} {raw : Bool} {w : List Byte} {c : Command}

/-- The final command of a V1 block ends the `EXPAND`, by the end of the stream or by `V1.EOD` (R275, R306). -/
theorem v1_final_decodesTo (hs : s.Decoding 1#2 raw w) (hm : c.match? = none) (hlits : c.LitAt w s.dec.op)
    (hend : s.dec.op + c.nl = w.length) (hnl : c.nl ≤ 65535) (hbytes : s.holds .din s.dec.ip (v1Command raw w c))
    (hsize : s.dec.ip + (v1Command raw w c).length = s.dec.dinsz) : s.DecodesTo w := by
  rw [v1Command_of_final hm] at hbytes hsize
  obtain ⟨hhead, htail⟩ := State.holds_append.1 hbytes
  obtain ⟨hliterals, hmarker⟩ := State.holds_append.1 htail
  simp only [List.length_append, List.length_cons, hlits.length_literals] at hsize hliterals hmarker
  obtain ⟨n, d, -, hknown, hip⟩ := v1_knowsLiterals hs.running hs.expect false (field := if raw then 15 else 0) hnl
    (by split_ifs <;> omega) hhead (by omega)
  have hsrc : s.holds .din d.ip (literalsOf w c) := by rw [hip, Nat.add_comm 1]; exact hliterals
  cases raw with
  | false =>
    exact hknown.decodesTo_framed hs.within hs.window hlits hend hs.capacity rfl hs.draw hsrc (by simp at hsize; omega)
  | true =>
    have hdinsz := hknown.same.operands.dinsz
    rw [show s.dec.ip + ((v1LitExt c.nl).length + 1) + c.nl = d.ip + c.nl by omega] at hmarker
    simp only [if_true, List.length_cons, List.length_nil] at hsize hmarker
    obtain ⟨hoffset, heod⟩ := State.holds_cons.1 hmarker
    refine hknown.decodesTo_raw (i := .v1Eod) (o := ⟨256, d.ip + c.nl + 1, d.nibh, d.nibv⟩) hs.running hs.within hs.window
      hlits hend hs.capacity rfl hs.draw hsrc (by omega) ?_ rfl (.inl rfl) ?_
    · simp only [v1Form, Bool.false_eq_true, if_false, wireOffset, State.withDec_dec, State.readByte_withDec, hoffset]
      exact if_pos (by omega)
    · rintro u hu hadv ⟨hat, -⟩ hform
      have hbytes' : u.holds .din u.dec.ip (encode .v1Eod) := by
        rw [hat]
        exact (hadv.holds_din _ _).2 heod
      have hsize' := hadv.operands.dinsz
      have hlength : (encode .v1Eod).length = 3 := rfl
      have hcomes := State.comesTo_of_holds hu (i := .v1Eod) hform rfl rfl hbytes' (by simp only at hat; omega)
      exact ⟨0, _, hcomes, by simp only at hat ⊢; omega⟩

/-- Commands that cover the window from the end of the output on decode to it. -/
theorem Covers.decodesTo_v1 {mm e p : Nat} {cmds : List Command} (h : Covers w mm e p cmds) (hmm : 3 ≤ mm)
    (hinput : w.length ≤ p + 65535) (hs : s.Decoding 1#2 raw w) (hop : s.dec.op = p)
    (hbytes : s.holds .din s.dec.ip (cmds.flatMap (v1Command raw w)))
    (hsize : s.dec.ip + (cmds.flatMap (v1Command raw w)).length = s.dec.dinsz) : s.DecodesTo w := by
  induction h generalizing s with
  | last final lits endsAt =>
    subst hop
    rw [List.flatMap_cons, List.flatMap_nil, List.append_nil] at hbytes hsize
    exact v1_final_decodesTo hs final lits endsAt (by omega) hbytes hsize
  | @cons e p c m cs hmatch lits here rest ih =>
    subst hop
    rw [List.flatMap_cons] at hbytes hsize
    rw [List.length_append] at hsize
    obtain ⟨hfirst, hrest⟩ := State.holds_append.1 hbytes
    have hfits := here.fits
    have hcap := hs.capacity
    obtain ⟨n, t, src, -, hruns, hdone, hip, hsrc⟩ := v1Command_decodes hs.running hs.expect hmatch here.off_pos
      here.off_cap (hmm.trans here.min_le) here.len_cap (by omega) lits.length_literals hfirst (by omega) (by omega)
      here.off_le
    have hdinsz := hruns.advanced.operands.dinsz
    refine hruns.decodesTo (ih (by omega) (hs.next hruns hdone lits hsrc here.toMatchAt) hdone.op ?_ (by omega))
    rw [hip]
    exact (hruns.advanced.holds_din _ _).2 hrest

end

/-- Settles O59: the commands of the block cover the window from the history on, so decoding them gives it back. -/
theorem roundTripV1 : Obligations.RoundTripV1 := by
  intro c k w hist cap x hfmt hmin hhist _ hinput hcap h
  refine (Covers.decodesTo_v1 (covers_compress c k hhist) hmin (by omega) (startsExpand_decoding h hhist hcap)
    (startsExpand_op h hhist) ?_ ?_).roundTrip h hhist
  · rw [← compress_out_v1 hfmt, h.decoder]
    exact h.stream
  · rw [← compress_out_v1 hfmt, h.decoder, Nat.zero_add]

end Sys2Proof.Machine
end

section
/-! The V2 stream and its nibbles (R234 to R236, R272, R273): where the decoder stands in what the Token Encoder has
written, when the free nibble of a pair byte may still be filled. -/

namespace Sys2Proof.Machine

/-! ### What the encoder writes -/

/-- The encoder comes from `e` to `e'` by putting bytes and nibbles (R234, R236). -/
inductive Enc.Puts : Enc → Enc → Prop where
  | refl (e : Enc) : Enc.Puts e e
  | bytes {e e' : Enc} (h : Enc.Puts e e') (bs : List Byte) : Enc.Puts e (e'.putBytes bs)
  | nibble {e e' : Enc} (h : Enc.Puts e e') {v : Nat} (hv : v ≤ 15) : Enc.Puts e (e'.putNibble v)

theorem Enc.Puts.trans {e f g : Enc} (h : Enc.Puts e f) (k : Enc.Puts f g) : Enc.Puts e g := by
  induction k with
  | refl => exact h
  | bytes _ bs ih => exact ih.bytes bs
  | nibble _ hv ih => exact ih.nibble hv

/-- An open pair byte is one that is written, its low nibble free (R236). -/
def Enc.Wf (e : Enc) : Prop := ∀ i, e.nib = some i → ∃ b, e.out[i]? = some b ∧ b.toNat % 16 = 0

theorem Enc.wf_start : Enc.start.Wf := nofun

theorem Enc.putNibble_of_none {e : Enc} (h : e.nib = none) (v : Nat) :
    e.putNibble v = { out := e.out ++ [byteOf (16 * v)], nib := some e.out.length } := by simp [Enc.putNibble, h]

theorem Enc.putNibble_of_some {e : Enc} {i : Nat} (h : e.nib = some i) (v : Nat) :
    e.putNibble v = { out := e.out.modify i (fun b => b + byteOf v), nib := none } := by simp [Enc.putNibble, h]

theorem Enc.Wf.putBytes {e : Enc} (h : e.Wf) (bs : List Byte) : (e.putBytes bs).Wf := fun i hi =>
  (h i hi).imp fun b ⟨hb, hlow⟩ => ⟨by
    rw [Enc.putBytes, List.getElem?_append_left (List.getElem?_eq_some_iff.1 hb).1, hb], hlow⟩

theorem Enc.wf_putNibble (e : Enc) (v : Nat) : (e.putNibble v).Wf := by
  intro i hi
  cases hnib : e.nib with
  | none =>
    rw [Enc.putNibble_of_none hnib] at hi ⊢
    cases hi
    refine ⟨byteOf (16 * v), by simp, ?_⟩
    rw [toNat_byteOf]
    omega
  | some j =>
    rw [Enc.putNibble_of_some hnib] at hi
    cases hi

theorem Enc.Puts.wf {e e' : Enc} (h : Enc.Puts e e') (hwf : e.Wf) : e'.Wf := by
  induction h with
  | refl => exact hwf
  | bytes _ bs ih => exact ih.putBytes bs
  | nibble => exact Enc.wf_putNibble _ _

theorem Enc.length_le_putNibble (e : Enc) (v : Nat) : e.out.length ≤ (e.putNibble v).out.length := by
  unfold Enc.putNibble
  split <;> simp

theorem Enc.Puts.length_le {e e' : Enc} (h : Enc.Puts e e') : e.out.length ≤ e'.out.length := by
  induction h with
  | refl => exact le_rfl
  | bytes _ bs ih => exact ih.trans (by simp)
  | nibble _ _ ih => exact ih.trans (Enc.length_le_putNibble _ _)

/-! ### The stream and the encoder -/

/-- The stream in `DIN` starts with what the encoder has written, but for a free nibble, which anything may have filled. -/
structure State.Streams (s : State) (e : Enc) : Prop where
  fits : e.out.length ≤ s.dec.dinsz
  high : ∀ j b, e.out[j]? = some b → (s.readByte .din j).toNat / 16 = b.toNat / 16
  low : ∀ j b, e.out[j]? = some b → e.nib ≠ some j → s.readByte .din j = b

/-- A stream position is the one behind what the encoder has written; a buffered nibble is the one of the open pair byte. -/
structure State.StandsBehind (s : State) (e : Enc) (ip : Nat) (nibh : Bool) (nibv : BitVec 4) : Prop where
  ip : ip = e.out.length
  nibh : nibh = e.nib.isSome
  nibv : ∀ i, e.nib = some i → nibv.toNat = (s.readByte .din i).toNat % 16

section
variable {s : State} {e : Enc}

theorem State.Streams.of_putBytes {bs : List Byte} (h : s.Streams (e.putBytes bs)) : s.Streams e := by
  have hbytes : ∀ j b, e.out[j]? = some b → (e.putBytes bs).out[j]? = some b := fun j b hb => by
    rw [Enc.putBytes, List.getElem?_append_left (List.getElem?_eq_some_iff.1 hb).1, hb]
  exact ⟨(Nat.le_add_right _ _).trans ((e.length_putBytes bs).symm.trans_le h.fits), fun j b hb => h.high j b (hbytes j b hb),
    fun j b hb => h.low j b (hbytes j b hb)⟩

/-- Filling a free nibble leaves the high one. -/
theorem toNat_add_byteOf {b : Byte} {v : Nat} (hb : b.toNat % 16 = 0) (hv : v ≤ 15) :
    (b + byteOf v).toNat = b.toNat + v := by
  have hlt := b.isLt
  rw [BitVec.toNat_add, toNat_byteOf]
  omega

theorem State.Streams.of_putNibble (hwf : e.Wf) {v : Nat} (hv : v ≤ 15) (h : s.Streams (e.putNibble v)) : s.Streams e := by
  have hfits := (e.length_le_putNibble v).trans h.fits
  cases hnib : e.nib with
  | none =>
    rw [Enc.putNibble_of_none hnib] at h
    have hbytes : ∀ j b, e.out[j]? = some b → (e.out ++ [byteOf (16 * v)])[j]? = some b := fun j b hb => by
      rw [List.getElem?_append_left (List.getElem?_eq_some_iff.1 hb).1, hb]
    refine ⟨hfits, fun j b hb => h.high j b (hbytes j b hb), fun j b hb _ => h.low j b (hbytes j b hb) ?_⟩
    have hlt := (List.getElem?_eq_some_iff.1 hb).1
    simp only [ne_eq, Option.some.injEq]
    omega
  | some i =>
    rw [Enc.putNibble_of_some hnib] at h
    have hother : ∀ j b, e.out[j]? = some b → j ≠ i → s.readByte .din j = b := fun j b hb hj =>
      h.low j b (by simp [hb, Ne.symm hj]) nofun
    refine ⟨hfits, fun j b hb => ?_, fun j b hb hj => hother j b hb fun heq => hj (by rw [hnib, heq])⟩
    by_cases hj : j = i
    · subst hj
      obtain ⟨b', hb', hlow⟩ := hwf j hnib
      obtain rfl : b = b' := Option.some.inj (hb.symm.trans hb')
      rw [h.low j (b + byteOf v) (by simp [hb]) nofun, toNat_add_byteOf hlow hv]
      omega
    · rw [hother j b hb hj]

theorem State.Streams.of_puts {e' : Enc} (hputs : Enc.Puts e e') (hwf : e.Wf) (h : s.Streams e') : s.Streams e := by
  induction hputs with
  | refl => exact h
  | bytes _ bs ih => exact ih h.of_putBytes
  | nibble hputs hv ih => exact ih (h.of_putNibble (hputs.wf hwf) hv)

/-- The bytes put last stand in the stream. -/
theorem State.Streams.holds (hwf : e.Wf) {bs : List Byte} (h : s.Streams (e.putBytes bs)) :
    s.holds .din e.out.length bs ∧ e.out.length + bs.length ≤ s.dec.dinsz := by
  refine ⟨List.ext_getElem (State.readBytes_length ..) fun i hi hi' => ?_, (e.length_putBytes bs).symm.trans_le h.fits⟩
  rw [State.readBytes_getElem]
  refine h.low _ _ ?_ fun hnib => ?_
  · rw [Enc.putBytes, List.getElem?_append_right (Nat.le_add_right _ _), Nat.add_sub_cancel_left,
      List.getElem?_eq_getElem hi']
  · obtain ⟨b, hb, -⟩ := hwf _ hnib
    have hlt := (List.getElem?_eq_some_iff.1 hb).1
    omega

theorem State.StandsBehind.putBytes {ip : Nat} {nibh : Bool} {nibv : BitVec 4} (h : s.StandsBehind e ip nibh nibv)
    (bs : List Byte) : s.StandsBehind (e.putBytes bs) (ip + bs.length) nibh nibv :=
  ⟨by rw [h.ip, Enc.length_putBytes], h.nibh, h.nibv⟩

/-- The nibble put last is the next one the decoder reads (R273). -/
theorem State.StandsBehind.putNibble {p v : Nat} (h : s.StandsBehind e p s.dec.nibh s.dec.nibv) (hwf : e.Wf) (hv : v ≤ 15)
    (hstream : s.Streams (e.putNibble v)) :
    ∃ q h n, wireNibble s p = some (v, q, h, n) ∧ s.StandsBehind (e.putNibble v) q h n := by
  cases hnib : e.nib with
  | none =>
    have hnibh : s.dec.nibh = false := by rw [h.nibh, hnib]; rfl
    rw [Enc.putNibble_of_none hnib] at hstream ⊢
    have hhigh := hstream.high e.out.length (byteOf (16 * v)) (by simp)
    have hfits := hstream.fits
    rw [toNat_byteOf] at hhigh
    rw [List.length_append, List.length_singleton] at hfits
    obtain rfl := h.ip
    refine ⟨e.out.length + 1, true, BitVec.ofNat 4 ((s.readByte .din e.out.length).toNat % 16), ?_, by simp, rfl, fun i hi => ?_⟩
    · rw [wireNibble, hnibh, if_neg Bool.false_ne_true, if_pos (by omega), hhigh]
      congr 2
      omega
    · cases hi
      rw [BitVec.toNat_ofNat]
      omega
  | some i =>
    have hnibh : s.dec.nibh = true := by rw [h.nibh, hnib]; rfl
    obtain ⟨b, hb, hlow⟩ := hwf i hnib
    rw [Enc.putNibble_of_some hnib] at hstream ⊢
    have hbyte := hstream.low i (b + byteOf v) (by simp [hb]) nofun
    have hvalue : s.dec.nibv.toNat = v := by
      rw [h.nibv i hnib, hbyte, toNat_add_byteOf hlow hv]
      omega
    exact ⟨p, false, s.dec.nibv, by rw [wireNibble, hnibh, if_pos rfl, hvalue], by simpa using h.ip, rfl, nofun⟩

end

/-! ### The stream does not change -/

theorem State.standsBehind_withDec {s : State} {d : Dec} {e : Enc} {ip : Nat} {nibh : Bool} {nibv : BitVec 4} :
    (s.withDec d).StandsBehind e ip nibh nibv ↔ s.StandsBehind e ip nibh nibv :=
  ⟨fun k => ⟨k.ip, k.nibh, fun i hi => by rw [k.nibv i hi, State.readByte_withDec]⟩,
    fun k => ⟨k.ip, k.nibh, fun i hi => by rw [k.nibv i hi, State.readByte_withDec]⟩⟩

theorem State.Streams.withDec {s : State} {e : Enc} (h : s.Streams e) {d : Dec} (hd : d.dinsz = s.dec.dinsz) :
    (s.withDec d).Streams e :=
  ⟨h.fits.trans_eq hd.symm, fun j b hb => by rw [State.readByte_withDec, h.high j b hb],
    fun j b hb hj => by rw [State.readByte_withDec, h.low j b hb hj]⟩

theorem State.Advanced.streams {s t : State} (h : s.Advanced t) {e : Enc} (k : s.Streams e) : t.Streams e :=
  ⟨h.operands.dinsz ▸ k.fits, fun j b hb => by rw [h.readByte_din, k.high j b hb],
    fun j b hb hj => by rw [h.readByte_din, k.low j b hb hj]⟩

theorem State.Advanced.standsBehind {s t : State} (h : s.Advanced t) {e : Enc} {ip : Nat} {nibh : Bool} {nibv : BitVec 4} :
    t.StandsBehind e ip nibh nibv ↔ s.StandsBehind e ip nibh nibv :=
  ⟨fun k => ⟨k.ip, k.nibh, fun i hi => by rw [k.nibv i hi, h.readByte_din]⟩,
    fun k => ⟨k.ip, k.nibh, fun i hi => by rw [k.nibv i hi, h.readByte_din]⟩⟩

end Sys2Proof.Machine
end

section
/-! A V2 command on the wire is decoded back (R241 to R244, R290 to R303): the token, the literal extension, the offset
field and the match extension, through the nibble buffer. -/

namespace Sys2Proof.Machine

/-! ### The token -/

/-- The V2 token of an offset form (R110); the two forms of V1 have none, and stand with the last. -/
def v2Token (f : OffForm) (ll : BitVec 2) (mmm : BitVec 3) : Instr :=
  match f with
  | .off5 z => .v2Off5 z ll mmm
  | .off9 z => .v2Off9 z ll mmm
  | .off13 z => .v2Off13 z ll mmm
  | .off16 => .v2Off16 ll mmm
  | _ => .v2Rep ll mmm

/-- The `XYZ` field of the token of an offset form (R110). -/
def OffForm.xyz : OffForm → Nat
  | .off5 z => z.toNat
  | .off9 z => 2 + z.toNat
  | .off13 z => 4 + z.toNat
  | .off16 => 6
  | _ => 7

/-- The V2 token byte with fields in range is the encoding of the token. -/
theorem encode_v2Token (f : OffForm) {a b : Nat} (ha : a ≤ 3) (hb : b ≤ 7) :
    encode (v2Token f (BitVec.ofNat 2 a) (BitVec.ofNat 3 b)) = [byteOf (32 * f.xyz + 8 * a + b)] := by
  have hshort (xy : BitVec 2) (z : BitVec 1) :
      xy ++ z ++ BitVec.ofNat 2 a ++ BitVec.ofNat 3 b = byteOf (32 * (2 * xy.toNat + z.toNat) + 8 * a + b) := by
    apply BitVec.eq_of_toNat_eq
    simp only [toNat_append_eq, BitVec.toNat_ofNat, toNat_byteOf]
    omega
  have hlong (xyz : BitVec 3) :
      xyz ++ BitVec.ofNat 2 a ++ BitVec.ofNat 3 b = byteOf (32 * xyz.toNat + 8 * a + b) := by
    apply BitVec.eq_of_toNat_eq
    simp only [toNat_append_eq, BitVec.toNat_ofNat, toNat_byteOf]
    omega
  cases f with
  | off5 z | off9 z | off13 z => simp [v2Token, encode, hshort, OffForm.xyz]
  | off16 | rep | o8 | o16 => simp [v2Token, encode, hlong, OffForm.xyz]

theorem v2Token_format (f : OffForm) (ll : BitVec 2) (mmm : BitVec 3) : (v2Token f ll mmm).format = .v2tok := by
  cases f <;> rfl

theorem v2Token_wf (f : OffForm) (ll : BitVec 2) (mmm : BitVec 3) : (v2Token f ll mmm).WellFormed := by
  cases f <;> rfl

theorem literalKnown_v2Token (d : Dec) {f : OffForm} (hf : f.isV1 = false) {ll : BitVec 2} (h : ll.toNat < 3)
    (mmm : BitVec 3) : literalKnown d (v2Token f ll mmm) = some ⟨ll.toNat, f, mmm.toNat⟩ := by
  cases f with
  | o8 | o16 => cases hf
  | _ => exact if_pos h

theorem literalWaits_v2Token {f : OffForm} (hf : f.isV1 = false) {ll : BitVec 2} (h : ll.toNat = 3) (mmm : BitVec 3) :
    literalWaits (v2Token f ll mmm) = some (f, mmm.toNat, .v2litxn) := by
  cases f with
  | o8 | o16 => cases hf
  | _ => exact if_pos h

/-- The offset form the encoder chooses (R243). -/
def v2Form (m : MatchPart) : OffForm :=
  if m.rep then .rep
  else if m.off ≤ 32 then .off5 (BitVec.ofNat 1 (1 - (65536 - m.off) % 2))
  else if m.off ≤ 512 then .off9 (BitVec.ofNat 1 (1 - (65536 - m.off) / 256 % 2))
  else if m.off ≤ 8704 then .off13 (BitVec.ofNat 1 (1 - (65536 - m.off + 512) / 256 % 2))
  else .off16

theorem v2Form_isV1 (m : MatchPart) : (v2Form m).isV1 = false := by
  unfold v2Form
  split_ifs <;> rfl

theorem xyz_v2Form (m : MatchPart) : (v2Form m).xyz = v2Mode m := by
  unfold v2Form v2Mode
  split_ifs <;> simp only [OffForm.xyz, BitVec.toNat_ofNat] <;> omega

/-! ### The extensions -/

/-- The bytes behind a literal nibble of 15 (R242). -/
def v2LitBytes (nl : Nat) : List Byte := if nl ≤ 255 then [byteOf (nl - 18)] else byteOf 239 :: lohi nl

/-- The bytes behind a match nibble of 15 (R244). -/
def v2MatchBytes (len : Nat) : List Byte := if len ≤ 255 then [byteOf (len - 24)] else byteOf 233 :: lohi len

section
variable (e : Enc) {n : Nat}

theorem Enc.putV2LitExt_of_inline (h : n < 3) : e.putV2LitExt n = e := if_pos h

theorem Enc.putV2LitExt_of_nibble (h : 3 ≤ n) (h' : n < 18) : e.putV2LitExt n = e.putNibble (n - 3) := by
  rw [Enc.putV2LitExt, if_neg (by omega), if_pos h', Nat.min_eq_left (by omega)]

theorem Enc.putV2LitExt_of_bytes (h : 18 ≤ n) : e.putV2LitExt n = (e.putNibble 15).putBytes (v2LitBytes n) := by
  rw [Enc.putV2LitExt, if_neg (by omega), if_neg (by omega), Nat.min_eq_right (by omega), v2LitBytes]
  split_ifs <;> rfl

theorem Enc.putV2MatchExt_of_inline (h : n < 9) : e.putV2MatchExt n = e := if_pos h

theorem Enc.putV2MatchExt_of_nibble (h : 9 ≤ n) (h' : n < 24) : e.putV2MatchExt n = e.putNibble (n - 9) := by
  rw [Enc.putV2MatchExt, if_neg (by omega), if_pos h', Nat.min_eq_left (by omega)]

theorem Enc.putV2MatchExt_of_bytes (h : 24 ≤ n) : e.putV2MatchExt n = (e.putNibble 15).putBytes (v2MatchBytes n) := by
  rw [Enc.putV2MatchExt, if_neg (by omega), if_neg (by omega), Nat.min_eq_right (by omega), v2MatchBytes]
  split_ifs <;> rfl

theorem Enc.puts_putV2LitExt : Enc.Puts e (e.putV2LitExt n) := by
  obtain h | h := Nat.lt_or_ge n 3
  · rw [e.putV2LitExt_of_inline h]
    exact .refl e
  obtain h' | h' := Nat.lt_or_ge n 18
  · rw [e.putV2LitExt_of_nibble h h']
    exact (Enc.Puts.refl e).nibble (by omega)
  · rw [e.putV2LitExt_of_bytes h']
    exact ((Enc.Puts.refl e).nibble le_rfl).bytes _

theorem Enc.puts_putV2MatchExt : Enc.Puts e (e.putV2MatchExt n) := by
  obtain h | h := Nat.lt_or_ge n 9
  · rw [e.putV2MatchExt_of_inline h]
    exact .refl e
  obtain h' | h' := Nat.lt_or_ge n 24
  · rw [e.putV2MatchExt_of_nibble h h']
    exact (Enc.Puts.refl e).nibble (by omega)
  · rw [e.putV2MatchExt_of_bytes h']
    exact ((Enc.Puts.refl e).nibble le_rfl).bytes _

theorem Enc.puts_putV2Offset (m : MatchPart) : Enc.Puts e (e.putV2Offset m) := by
  unfold Enc.putV2Offset
  split_ifs
  · exact .refl e
  · exact (Enc.Puts.refl e).nibble (by omega)
  · exact (Enc.Puts.refl e).bytes _
  · exact ((Enc.Puts.refl e).nibble (by omega)).bytes _
  · exact (Enc.Puts.refl e).bytes _

end

/-- The bytes of a V2 literal extension are one instruction, which gives the count (R242, R293, R294). -/
theorem v2LitBytes_eq_encode {nl : Nat} (hmin : 18 ≤ nl) (hmax : nl ≤ 65535) :
    ∃ i, v2LitBytes nl = encode i ∧ i.format = .v2litxb ∧ i.WellFormed ∧
      ∀ d, literalKnown d i = some ⟨nl, d.tokForm, d.tokM⟩ := by
  unfold v2LitBytes
  split_ifs with h8
  · have hb : (byteOf (nl - 18)).toNat = nl - 18 := by rw [toNat_byteOf]; omega
    exact ⟨.v2Litx8 (byteOf (nl - 18)), rfl, rfl, by simp [Instr.WellFormed, Instr.wf, hb]; omega,
      fun d => by simp [literalKnown, hb]; omega⟩
  · exact ⟨.v2Litx16 (BitVec.ofNat 16 nl), by rw [lohi_eq hmax]; rfl, rfl, rfl,
      fun d => by simp [literalKnown]; omega⟩

/-- The bytes of a V2 match extension are one instruction, which gives the length (R244, R302, R303). -/
theorem v2MatchBytes_eq_encode {len : Nat} (hmin : 24 ≤ len) (hmax : len ≤ 65535) :
    ∃ i, v2MatchBytes len = encode i ∧ i.format = .v2mlxb ∧ i.WellFormed ∧ extendedMatchLength i = some len := by
  unfold v2MatchBytes
  split_ifs with h8
  · have hb : (byteOf (len - 24)).toNat = len - 24 := by rw [toNat_byteOf]; omega
    exact ⟨.v2Mlx8 (byteOf (len - 24)), rfl, rfl, by simp [Instr.WellFormed, Instr.wf, hb]; omega,
      by simp [extendedMatchLength, hb]; omega⟩
  · exact ⟨.v2Mlx16 (BitVec.ofNat 16 len), by rw [lohi_eq hmax]; rfl, rfl, rfl, by simp [extendedMatchLength]; omega⟩

/-! ### Forms behind what the encoder has written -/

section
variable {s : State} (hs : s.Running) {e : Enc} (hwf : e.Wf) (hat : s.StandsBehind e s.dec.ip s.dec.nibh s.dec.nibv)
include hs hwf hat

/-- A form of whole bytes put by the encoder is the next one to run. -/
theorem State.StandsBehind.comesTo {i : Instr} (hformat : s.dec.expect = i.format) (hi : i.WellFormed)
    (hbytes : i.format.isNibble = false) (hstream : s.Streams (e.putBytes (encode i))) :
    s.ComesTo 0 i { s.dec with ip := s.dec.ip + (encode i).length } ∧
      s.StandsBehind (e.putBytes (encode i)) (s.dec.ip + (encode i).length) s.dec.nibh s.dec.nibv := by
  obtain ⟨hholds, hfits⟩ := hstream.holds hwf
  rw [← hat.ip] at hholds hfits
  exact ⟨State.comesTo_of_holds hs hformat hi hbytes hholds hfits, hat.putBytes _⟩

/-- A nibble of 15 put by the encoder makes the decoder expect the byte format behind it (R293, R302). -/
theorem State.StandsBehind.escapes (hnibble : s.dec.expect.isNibble = true) (hstream : s.Streams (e.putNibble 15)) :
    ∃ d : Dec, State.Runs 1 s (s.withDec d) ∧ d.SameCommand s.dec ∧
      d.expect = (if s.dec.expect = .v2litxn then .v2litxb else .v2mlxb) ∧
      d.tokForm = s.dec.tokForm ∧ d.tokM = s.dec.tokM ∧ s.StandsBehind (e.putNibble 15) d.ip d.nibh d.nibv := by
  obtain ⟨q, h, nv, hw, hat'⟩ := hat.putNibble hwf le_rfl hstream
  have hstep := (stepRunsTheNibbleForm s 15 q h nv hs.turn hnibble hw).2.2 rfl
  exact ⟨_, State.runs_of_step hs hstep hs.busy, ⟨⟨rfl, rfl, rfl, rfl, rfl⟩, rfl, rfl, rfl⟩, rfl, rfl, rfl, hat'⟩

/-- The literal extension of a V2 command gives its count (R292 to R294). -/
theorem v2LitExt_knowsLiterals (hexpect : s.dec.expect = .v2litxn) {nl : Nat} (hmin : 3 ≤ nl) (hmax : nl ≤ 65535)
    (hstream : s.Streams (e.putV2LitExt nl)) :
    ∃ n d, s.KnowsLiterals n ⟨nl, s.dec.tokForm, s.dec.tokM⟩ d ∧
      s.StandsBehind (e.putV2LitExt nl) d.ip d.nibh d.nibv := by
  have hnibble : s.dec.expect.isNibble = true := by rw [hexpect]; rfl
  obtain hsmall | hbig := Nat.lt_or_ge nl 18
  · rw [e.putV2LitExt_of_nibble hmin hsmall] at hstream ⊢
    obtain ⟨q, h, nv, hw, hat'⟩ := hat.putNibble hwf (by omega) hstream
    have hstep := (stepRunsTheNibbleForm s _ q h nv hs.turn hnibble hw).1 (by omega) hexpect
    refine ⟨0, { s.dec with ip := q, nibh := h, nibv := nv }, ⟨_, ⟨⟨⟨rfl, rfl, rfl, rfl, rfl⟩, rfl, rfl, rfl⟩,
      s.dec, .refl s, hstep⟩, ?_⟩, hat'⟩
    simp [literalKnown]
    omega
  · rw [e.putV2LitExt_of_bytes hbig] at hstream ⊢
    obtain ⟨d, hruns, hsame, hform, htok, hfield, hat'⟩ := hat.escapes hs hwf hnibble hstream.of_putBytes
    obtain ⟨i, hi, hformat, hiwf, hknown⟩ := v2LitBytes_eq_encode hbig hmax
    rw [hexpect, if_pos rfl] at hform
    rw [hi] at hstream ⊢
    have hadv := hruns.advanced
    obtain ⟨hcomes, hat''⟩ := State.StandsBehind.comesTo (hs.advanced hadv) (Enc.wf_putNibble e 15)
      (hadv.standsBehind.2 hat') (hform.trans hformat.symm) hiwf (by rw [hformat]; rfl) (hadv.streams hstream)
    exact ⟨1 + 0, _, hruns.knowsLiterals hsame ⟨i, hcomes, by rw [hknown, ← htok, ← hfield]; rfl⟩,
      hadv.standsBehind.1 hat''⟩

/-- The match extension of a V2 command gives its length (R301 to R303). -/
theorem v2MatchExt_knowsLength (hexpect : s.dec.expect = .v2mlxn) {len : Nat} (hmin : 9 ≤ len) (hmax : len ≤ 65535)
    (hstream : s.Streams (e.putV2MatchExt len)) :
    ∃ n d, s.KnowsLength n len d ∧ s.StandsBehind (e.putV2MatchExt len) d.ip d.nibh d.nibv := by
  have hnibble : s.dec.expect.isNibble = true := by rw [hexpect]; rfl
  obtain hsmall | hbig := Nat.lt_or_ge len 24
  · rw [e.putV2MatchExt_of_nibble hmin hsmall] at hstream ⊢
    obtain ⟨q, h, nv, hw, hat'⟩ := hat.putNibble hwf (by omega) hstream
    have hstep := (stepRunsTheNibbleForm s _ q h nv hs.turn hnibble hw).2.1 (by omega) hexpect
    refine ⟨0, { s.dec with ip := q, nibh := h, nibv := nv }, ⟨_, ⟨⟨⟨rfl, rfl, rfl, rfl, rfl⟩, rfl, rfl, rfl⟩,
      s.dec, .refl s, hstep⟩, ?_⟩, hat'⟩
    simp [extendedMatchLength]
    omega
  · rw [e.putV2MatchExt_of_bytes hbig] at hstream ⊢
    obtain ⟨d, hruns, hsame, hform, -, -, hat'⟩ := hat.escapes hs hwf hnibble hstream.of_putBytes
    obtain ⟨i, hi, hformat, hiwf, hlength⟩ := v2MatchBytes_eq_encode hbig hmax
    rw [hexpect, if_neg (by decide)] at hform
    rw [hi] at hstream ⊢
    have hadv := hruns.advanced
    obtain ⟨hcomes, hat''⟩ := State.StandsBehind.comesTo (hs.advanced hadv) (Enc.wf_putNibble e 15)
      (hadv.standsBehind.2 hat') (hform.trans hformat.symm) hiwf (by rw [hformat]; rfl) (hadv.streams hstream)
    exact ⟨1 + 0, _, hruns.knowsLength hsame ⟨i, hcomes, hlength⟩, hadv.standsBehind.1 hat''⟩

/-- The token of a V2 command settles its literal count, or waits for the extension that does. -/
theorem v2_knowsLiterals (hexpect : s.dec.expect = .v2tok) {f : OffForm} (hf : f.isV1 = false) {nl field : Nat}
    (hnl : nl ≤ 65535) (hfield : field ≤ 7)
    (hstream : s.Streams ((e.putBytes [byteOf (32 * f.xyz + 8 * min nl 3 + field)]).putV2LitExt nl)) :
    ∃ n d, s.KnowsLiterals n ⟨nl, f, field⟩ d ∧
      s.StandsBehind ((e.putBytes [byteOf (32 * f.xyz + 8 * min nl 3 + field)]).putV2LitExt nl) d.ip d.nibh d.nibv := by
  have hll : (BitVec.ofNat 2 (min nl 3)).toNat = min nl 3 := by rw [BitVec.toNat_ofNat]; omega
  have hmmm : (BitVec.ofNat 3 field).toNat = field := by rw [BitVec.toNat_ofNat]; omega
  have hwf' := hwf.putBytes [byteOf (32 * f.xyz + 8 * min nl 3 + field)]
  have htoken := hstream.of_puts (Enc.puts_putV2LitExt _) hwf'
  rw [← encode_v2Token f (Nat.min_le_right nl 3) hfield] at htoken hstream hwf' ⊢
  obtain ⟨hcomes, hat'⟩ := hat.comesTo hs hwf (hexpect.trans (v2Token_format ..).symm) (v2Token_wf ..)
    (by rw [v2Token_format]; rfl) htoken
  obtain hinline | hfull := Nat.lt_or_ge nl 3
  · rw [Enc.putV2LitExt_of_inline _ hinline]
    exact ⟨0, _, ⟨_, hcomes, by
      rw [literalKnown_v2Token _ hf (hll.trans_lt (by omega)), hll, hmmm, Nat.min_eq_left hinline.le]⟩, hat'⟩
  · have hwait := s.runs_of_literalWaits hs hcomes (literalWaits_v2Token hf (hll.trans (by omega)) _)
    rw [hmmm] at hwait
    have hadv := hwait.advanced
    obtain ⟨n, d, hknown, hat''⟩ := v2LitExt_knowsLiterals (hs.advanced hadv) hwf' (hadv.standsBehind.2 hat') rfl hfull
      hnl (hadv.streams hstream)
    exact ⟨0 + 1 + n, d, hwait.knowsLiterals ⟨⟨rfl, rfl, rfl, rfl, rfl⟩, rfl, rfl, rfl⟩ hknown, hadv.standsBehind.1 hat''⟩

end

end Sys2Proof.Machine
end

section
/-! The round trip of a V2 block (R251): the offset field, a whole command with its repeat offset, the final command, and the
commands one after the other. -/

namespace Sys2Proof.Machine

/-! ### The offset field -/

/-- The offset field of a V2 command carries its offset (R243, R295 to R299); a set repeat flag stands for `REP`. -/
theorem wireOffset_v2 {s : State} {e : Enc} {p : Nat} (hwf : e.Wf) (hat : s.StandsBehind e p s.dec.nibh s.dec.nibv)
    {m : MatchPart} (hmin : 1 ≤ m.off) (hmax : m.off ≤ 65535) (hrep : m.rep = true → s.dec.rep = m.off)
    (hstream : s.Streams (e.putV2Offset m)) :
    ∃ o, wireOffset s p (v2Form m) = some o ∧ o.off = m.off ∧ s.StandsBehind (e.putV2Offset m) o.ip o.nibh o.nibv := by
  unfold Enc.putV2Offset at hstream ⊢
  unfold v2Form
  split_ifs at hstream ⊢ with hflag h32 h512 h8704
  · exact ⟨_, rfl, hrep hflag, hat⟩
  · obtain ⟨q, h, n, hw, hat'⟩ := hat.putNibble hwf (by omega) hstream
    refine ⟨⟨m.off, q, h, n⟩, ?_, rfl, hat'⟩
    simp only [wireOffset, hw, BitVec.toNat_ofNat]
    congr 2
    omega
  · obtain ⟨hholds, hfits⟩ := hstream.holds hwf
    rw [← hat.ip] at hholds hfits
    obtain ⟨hbyte, -⟩ := State.holds_cons.1 hholds
    rw [List.length_singleton] at hfits
    refine ⟨⟨m.off, p + 1, s.dec.nibh, s.dec.nibv⟩, ?_, rfl, hat.putBytes _⟩
    simp only [wireOffset, hbyte, BitVec.toNat_ofNat, toNat_byteOf]
    rw [if_pos (by omega)]
    congr 2
    omega
  · obtain ⟨q, h, n, hw, hat'⟩ := hat.putNibble hwf (by omega) hstream.of_putBytes
    obtain ⟨hholds, hfits⟩ := hstream.holds (Enc.wf_putNibble _ _)
    rw [← hat'.ip] at hholds hfits
    obtain ⟨hbyte, -⟩ := State.holds_cons.1 hholds
    rw [List.length_singleton] at hfits
    refine ⟨⟨m.off, q + 1, h, n⟩, ?_, rfl, hat'.putBytes _⟩
    simp only [wireOffset, hw, hbyte, BitVec.toNat_ofNat, toNat_byteOf]
    rw [if_pos (by omega)]
    congr 2
    omega
  · obtain ⟨hholds, hfits⟩ := hstream.holds hwf
    rw [← hat.ip] at hholds hfits
    obtain ⟨hhi, hrest⟩ := State.holds_cons.1 hholds
    obtain ⟨hlo, -⟩ := State.holds_cons.1 hrest
    rw [List.length_cons, List.length_singleton] at hfits
    refine ⟨⟨m.off, p + 2, s.dec.nibh, s.dec.nibv⟩, ?_, rfl, hat.putBytes _⟩
    simp only [wireOffset, hhi, hlo, toNat_byteOf]
    rw [if_pos (by omega)]
    congr 2
    omega

/-! ### A whole command -/

theorem inlineMatchLength_of_v2 {f : OffForm} (hf : f.isV1 = false) (field : Nat) :
    inlineMatchLength f field = if field < 7 then some (field + 2) else none := by
  cases f with
  | o8 | o16 => cases hf
  | _ => rfl

theorem matchExtensionFormat_of_v2 {f : OffForm} (hf : f.isV1 = false) : matchExtensionFormat f = .v2mlxn := by
  cases f with
  | o8 | o16 => cases hf
  | _ => rfl

/-- The token byte, the literal extension and the literals of a V2 command (R241). -/
def Enc.putV2Literals (e : Enc) (w : List Byte) (c : Command) (xyz field : Nat) : Enc :=
  ((e.putBytes [byteOf (32 * xyz + 8 * min c.nl 3 + field)]).putV2LitExt c.nl).putBytes (literalsOf w c)

section
variable (e : Enc) (w : List Byte) (c : Command) (raw : Bool)

theorem Enc.puts_putV2Literals (xyz field : Nat) : Enc.Puts e (e.putV2Literals w c xyz field) :=
  (((Enc.Puts.refl e).bytes _).trans (Enc.puts_putV2LitExt _)).bytes _

theorem Enc.lt_putV2Literals (xyz field : Nat) : e.out.length < (e.putV2Literals w c xyz field).out.length := by
  have hputs := ((Enc.puts_putV2LitExt (e.putBytes [byteOf (32 * xyz + 8 * min c.nl 3 + field)]) (n := c.nl)).bytes
    (literalsOf w c)).length_le
  rw [Enc.length_putBytes, List.length_singleton] at hputs
  exact hputs

theorem Enc.putV2Command_of_match {m : MatchPart} (hm : c.match? = some m) :
    e.putV2Command raw w c =
      ((e.putV2Literals w c (v2Form m).xyz (min (m.len - 2) 7)).putV2Offset m).putV2MatchExt m.len := by
  simp only [Enc.putV2Command, hm, Enc.putV2Literals, xyz_v2Form]

theorem Enc.putV2Command_of_framed (hm : c.match? = none) : e.putV2Command false w c = e.putV2Literals w c 0 0 := by
  simp [Enc.putV2Command, hm, Enc.putV2Literals]

theorem Enc.putV2Command_of_raw (hm : c.match? = none) :
    e.putV2Command true w c = ((e.putV2Literals w c OffForm.rep.xyz 7).putNibble 15).putBytes [0xE8#8] := by
  simp only [Enc.putV2Command, hm, Enc.putV2Literals, if_true, OffForm.xyz]
  rw [show 8 * min c.nl 3 + (32 * 7 + 7) = 32 * 7 + 8 * min c.nl 3 + 7 by omega]

theorem Enc.puts_putV2Command : Enc.Puts e (e.putV2Command raw w c) := by
  cases hm : c.match? with
  | some m =>
    rw [e.putV2Command_of_match w c raw hm]
    exact ((e.puts_putV2Literals w c _ _).trans (Enc.puts_putV2Offset _ m)).trans (Enc.puts_putV2MatchExt _)
  | none =>
    cases raw with
    | false =>
      rw [e.putV2Command_of_framed w c hm]
      exact e.puts_putV2Literals w c _ _
    | true =>
      rw [e.putV2Command_of_raw w c hm]
      exact ((e.puts_putV2Literals w c _ _).nibble le_rfl).bytes _

theorem Enc.lt_putV2Command : e.out.length < (e.putV2Command raw w c).out.length := by
  cases hm : c.match? with
  | some m =>
    rw [e.putV2Command_of_match w c raw hm]
    exact (e.lt_putV2Literals w c _ _).trans_le
      ((Enc.puts_putV2Offset _ m).trans (Enc.puts_putV2MatchExt _)).length_le
  | none =>
    cases raw with
    | false =>
      rw [e.putV2Command_of_framed w c hm]
      exact e.lt_putV2Literals w c _ _
    | true =>
      rw [e.putV2Command_of_raw w c hm]
      exact (e.lt_putV2Literals w c _ _).trans_le (((Enc.Puts.refl _).nibble le_rfl).bytes _).length_le

end

section
variable {s : State} (hs : s.Running) {e : Enc} (hwf : e.Wf) (hat : s.StandsBehind e s.dec.ip s.dec.nibh s.dec.nibv)
  {w : List Byte} {c : Command} (hlits : (literalsOf w c).length = c.nl) (hnl : c.nl ≤ 65535)
include hs hwf hat hlits hnl

/-- The head of a V2 command settles its literal count; its literals stand at `IP`, and the offset field behind them. -/
theorem v2Literals_knowsLiterals (hexpect : s.dec.expect = .v2tok) {f : OffForm} (hf : f.isV1 = false) {field : Nat}
    (hfield : field ≤ 7) (hstream : s.Streams (e.putV2Literals w c f.xyz field)) :
    ∃ n d, s.KnowsLiterals n ⟨c.nl, f, field⟩ d ∧ s.holds .din d.ip (literalsOf w c) ∧
      s.StandsBehind (e.putV2Literals w c f.xyz field) (d.ip + c.nl) d.nibh d.nibv := by
  obtain ⟨n, d, hknown, hat'⟩ := v2_knowsLiterals hs hwf hat hexpect hf hnl hfield hstream.of_putBytes
  obtain ⟨hsrc, -⟩ := hstream.holds ((Enc.puts_putV2LitExt _).wf (hwf.putBytes _))
  rw [← hat'.ip] at hsrc
  exact ⟨n, d, hknown, hsrc, hlits ▸ hat'.putBytes (literalsOf w c)⟩

/-- The decoder reads a V2 command with a match (R290 to R303); another command follows it. -/
theorem v2Command_decodes (hexpect : s.dec.expect = .v2tok) {raw : Bool} {m : MatchPart} (hm : c.match? = some m)
    (hoff : 1 ≤ m.off) (hoff' : m.off ≤ 65535) (hlen : 2 ≤ m.len) (hlen' : m.len ≤ 32767)
    (hrep : m.rep = true → s.dec.rep = m.off) (hstream : s.Streams (e.putV2Command raw w c))
    (hmore : (e.putV2Command raw w c).out.length < s.dec.dinsz) (hout : s.dec.op + c.nl + m.len ≤ s.dec.dcap)
    (hback : m.off ≤ s.dec.op + c.nl) :
    ∃ n t src, State.Runs n s t ∧ s.CommandDone t src c.nl m.off m.len ∧ s.holds .din src (literalsOf w c) ∧
      s.StandsBehind (e.putV2Command raw w c) t.dec.ip t.dec.nibh t.dec.nibv := by
  rw [e.putV2Command_of_match w c raw hm] at hstream hmore ⊢
  have hputs := e.puts_putV2Literals w c (v2Form m).xyz (min (m.len - 2) 7)
  have hputs' := Enc.puts_putV2Offset (e.putV2Literals w c (v2Form m).xyz (min (m.len - 2) 7)) m
  have hext := Enc.puts_putV2MatchExt ((e.putV2Literals w c (v2Form m).xyz (min (m.len - 2) 7)).putV2Offset m) (n := m.len)
  have hstreamOff := hstream.of_puts hext (hputs'.wf (hputs.wf hwf))
  obtain ⟨n, d, hknown, hsrc, hat'⟩ := v2Literals_knowsLiterals hs hwf hat hlits hnl hexpect (v2Form_isV1 m)
    (Nat.min_le_right (m.len - 2) 7) (hstreamOff.of_puts hputs' (hputs.wf hwf))
  have hsize := hknown.same.operands.dinsz
  obtain ⟨o, hw, ho, hat''⟩ := wireOffset_v2 (s := s.withDec d) (hputs.wf hwf) (State.standsBehind_withDec.2 hat') hoff
    hoff' (fun h => hknown.same.rep.trans (hrep h)) (hstreamOff.withDec hsize)
  rw [State.standsBehind_withDec] at hat''
  have hroom : d.ip + c.nl < d.dinsz := by
    rw [hat'.ip, hsize]
    exact (hputs'.trans hext).length_le.trans_lt hmore
  obtain hinline | hfull := Nat.lt_or_ge m.len 9
  · have hfield : inlineMatchLength (v2Form m) (min (m.len - 2) 7) = some m.len := by
      rw [inlineMatchLength_of_v2 (v2Form_isV1 m), if_pos (by omega)]
      congr 1
      omega
    obtain ⟨t, hruns, hdone, hip, hnibh, hnibv⟩ := hknown.completes hs hroom hw hfield (ho ▸ hoff) (ho ▸ hback) hout
    rw [← hip, ← hnibh, ← hnibv] at hat''
    rw [Enc.putV2MatchExt_of_inline _ hinline]
    exact ⟨n + 1, t, d.ip, hruns, ho ▸ hdone, hsrc, hat''⟩
  · have hfield : inlineMatchLength (v2Form m) (min (m.len - 2) 7) = none := by
      rw [inlineMatchLength_of_v2 (v2Form_isV1 m), if_neg (by omega)]
    obtain ⟨u, hruns, ⟨hip, hnibh, hnibv⟩, hop, hmoff, hform⟩ := hknown.waits hs hroom hw (by simp only; omega) hfield
    rw [matchExtensionFormat_of_v2 (v2Form_isV1 m)] at hform
    rw [← hip, ← hnibh, ← hnibv] at hat''
    have hadv := hruns.advanced
    obtain ⟨k, d', hlength, hat''⟩ := v2MatchExt_knowsLength (hs.advanced hadv) (hputs'.wf (hputs.wf hwf))
      (hadv.standsBehind.2 hat'') hform hfull (by omega) (hadv.streams hstream)
    obtain ⟨t, hruns', hdone, hip', hnibh', hnibv'⟩ := State.KnowsLength.completes hs hruns hlength hop (by omega)
      (by omega) (by simp only; omega) hout
    rw [hmoff.trans ho] at hdone
    rw [← hip', ← hnibh', ← hnibv'] at hat''
    exact ⟨_, t, d.ip, hruns', hdone, hsrc, hadv.standsBehind.1 hat''⟩

end

section
variable {s : State} {raw : Bool} {w : List Byte} {c : Command} {e : Enc}

/-- The final command of a V2 block ends the `EXPAND`, by the end of the stream or by `V2.EOD` (R275, R306). -/
theorem v2_final_decodesTo (hs : s.Decoding 2#2 raw w) (hwf : e.Wf)
    (hat : s.StandsBehind e s.dec.ip s.dec.nibh s.dec.nibv) (hm : c.match? = none) (hlits : c.LitAt w s.dec.op)
    (hend : s.dec.op + c.nl = w.length) (hnl : c.nl ≤ 65535) (hstream : s.Streams (e.putV2Command raw w c))
    (hsize : (e.putV2Command raw w c).out.length = s.dec.dinsz) : s.DecodesTo w := by
  cases raw with
  | false =>
    rw [e.putV2Command_of_framed w c hm] at hstream hsize
    obtain ⟨n, d, hknown, hsrc, hat'⟩ := v2Literals_knowsLiterals hs.running hwf hat hlits.length_literals hnl hs.expect
      (f := .off5 0#1) rfl (Nat.zero_le 7) hstream
    exact hknown.decodesTo_framed hs.within hs.window hlits hend hs.capacity rfl hs.draw hsrc (hat'.ip.trans hsize)
  | true =>
    rw [e.putV2Command_of_raw w c hm] at hstream hsize
    have hputs := e.puts_putV2Literals w c OffForm.rep.xyz 7
    obtain ⟨n, d, hknown, hsrc, hat'⟩ := v2Literals_knowsLiterals hs.running hwf hat hlits.length_literals hnl hs.expect
      (f := .rep) rfl le_rfl (hstream.of_putBytes.of_putNibble (hputs.wf hwf) le_rfl)
    rw [Enc.length_putBytes, List.length_singleton] at hsize
    have hroom : d.ip + c.nl < s.dec.dinsz := by
      have hle := Enc.length_le_putNibble (e.putV2Literals w c OffForm.rep.xyz 7) 15
      have hip := hat'.ip
      omega
    refine hknown.decodesTo_raw (i := .v2Eod) (o := ⟨d.rep, d.ip + c.nl, d.nibh, d.nibv⟩) hs.running hs.within hs.window
      hlits hend hs.capacity rfl hs.draw hsrc hroom rfl rfl (.inr rfl) ?_
    rintro u hu hadv ⟨hip, hnibh, hnibv⟩ hform
    simp only at hip hnibh hnibv
    rw [← hip, ← hnibh, ← hnibv, ← hadv.standsBehind] at hat'
    have hstream' := hadv.streams hstream
    obtain ⟨d', hruns, hsame, hform', -, -, hat''⟩ := hat'.escapes hu (hputs.wf hwf) (by rw [hform]; rfl)
      hstream'.of_putBytes
    rw [hform] at hform'
    have hadv' := hruns.advanced
    obtain ⟨hcomes, hat'''⟩ := State.StandsBehind.comesTo (i := .v2Eod) (hu.advanced hadv') (Enc.wf_putNibble _ 15)
      (hadv'.standsBehind.2 hat'') hform' rfl rfl (hadv'.streams hstream')
    exact ⟨1 + 0, _, hruns.comesTo hsame hcomes, hat'''.ip.trans ((Enc.length_putBytes _ _).trans hsize)⟩

/-! ### The whole block -/

theorem Enc.puts_foldl_putCommand (raw : Bool) (w : List Byte) (cmds : List Command) (e : Enc) :
    Enc.Puts e (cmds.foldl (Enc.putCommand true raw w) e) := by
  induction cmds generalizing e with
  | nil => exact .refl e
  | cons c cmds ih => exact (e.puts_putV2Command w c raw).trans (ih _)

/-- Every command writes its token, so that commands that are still to come make the block longer. -/
theorem Covers.lt_foldl_putCommand {mm off p : Nat} {cmds : List Command} (h : Covers w mm off p cmds) (raw : Bool) (e : Enc) :
    e.out.length < (cmds.foldl (Enc.putCommand true raw w) e).out.length := by
  cases h with
  | last => exact e.lt_putV2Command w _ raw
  | cons => exact (e.lt_putV2Command w _ raw).trans_le (Enc.puts_foldl_putCommand raw w _ _).length_le

/-- Commands that cover the window from the end of the output on decode to it. -/
theorem Covers.decodesTo_v2 {mm off p : Nat} {cmds : List Command} (h : Covers w mm off p cmds) (hmm : 2 ≤ mm)
    (hinput : w.length ≤ p + 65535) (hs : s.Decoding 2#2 raw w) (hop : s.dec.op = p) (hrep : s.dec.rep = off) (hwf : e.Wf)
    (hat : s.StandsBehind e s.dec.ip s.dec.nibh s.dec.nibv)
    (hstream : s.Streams (cmds.foldl (Enc.putCommand true raw w) e))
    (hsize : (cmds.foldl (Enc.putCommand true raw w) e).out.length = s.dec.dinsz) : s.DecodesTo w := by
  induction h generalizing s e with
  | last final lits endsAt =>
    subst hop
    exact v2_final_decodesTo hs hwf hat final lits endsAt (by omega) hstream hsize
  | @cons off p c m cs hmatch lits here rest ih =>
    subst hop
    rw [List.foldl_cons] at hstream hsize
    have hfits := here.fits
    have hcap := hs.capacity
    have hwf' : (e.putCommand true raw w c).Wf := (e.puts_putV2Command w c raw).wf hwf
    have hmore := rest.lt_foldl_putCommand raw (e.putCommand true raw w c)
    obtain ⟨n, t, src, hruns, hdone, hsrc, hat'⟩ := v2Command_decodes hs.running hwf hat lits.length_literals (by omega)
      hs.expect hmatch here.off_pos here.off_cap (hmm.trans here.min_le) here.len_cap (fun hflag => by
        rw [hrep, here.flag hflag]) (hstream.of_puts (Enc.puts_foldl_putCommand raw w cs _) hwf') (hsize ▸ hmore)
      (by omega) here.off_le
    have hadv := hruns.advanced
    exact hruns.decodesTo (ih (by omega) (hs.next hruns hdone lits hsrc here.toMatchAt) hdone.op hdone.rep hwf'
      (hadv.standsBehind.2 hat') (hadv.streams hstream) (hsize.trans hadv.operands.dinsz.symm))

end

/-- Settles O60: as in V1, with the nibbles of the stream and the repeat offset in step with the encoder's. -/
theorem roundTripV2 : Obligations.RoundTripV2 := by
  intro c k w hist cap x hfmt hmin hhist _ hinput hcap h
  have hv2 : (c.fmt == 2#2) = true := by rw [hfmt]; rfl
  have hblock : (compress c k w hist).2 =
      ((groupTokens 0 0 (compress c k w hist).1.tok).foldl (Enc.putCommand true c.raw w) Enc.start).out := by
    rw [compress_out, encodeTokens, hv2]
  have hsize : (compress c k w hist).2.length = x.dec.dinsz := by rw [h.decoder]
  have hdin : x.holds .din 0 (compress c k w hist).2 := h.stream
  refine (Covers.decodesTo_v2 (covers_compress c k hhist) hmin (by omega) (startsExpand_decoding h hhist hcap)
    (startsExpand_op h hhist) ?_ Enc.wf_start ?_ ?_ (hblock ▸ hsize)).roundTrip h hhist
  · rw [h.decoder]
  · rw [h.decoder]
    exact ⟨rfl, rfl, nofun⟩
  · have hbyte : ∀ j b, (compress c k w hist).2[j]? = some b → x.readByte .din j = b := fun j b hb => by
      rw [← Nat.zero_add j]
      exact hdin.readByte hb
    exact ⟨hblock ▸ hsize.le, fun j b hb => by rw [hbyte j b (hblock ▸ hb)], fun j b hb _ => hbyte j b (hblock ▸ hb)⟩

end Sys2Proof.Machine
end
